-- ==== Sys2Proof/Word.lean ====
section
/-! DEFINITION. The words of the register bus (spec 00_scope.md R10, 20_memory.md R50). -/

namespace Sys2Proof

/-- A register, a bus data word or a command word: 32 bits (10_state.md R21). -/
abbrev Word := BitVec 32

/-- The 32-bit pattern of an IEEE-754 binary32 number: sign [31], exponent [30:23], fraction [22:0] (R10). -/
abbrev F32 := BitVec 32

/-- A byte address of the register space: ADDR_WIDTH = 13 (R8, R50). -/
abbrev Addr := BitVec 13

end Sys2Proof
end

