-- ==== Sys2Proof/Syntax.lean ====
section
/-! DEFINITION. The commands of the block (spec 30_encoding.md R72), one constructor per row of the opcode table,
and the filter types (R76). -/

namespace Sys2Proof

/-- The closed enumeration of filter types, in the order of the codes 0 to 6 (R76). -/
inductive FilterType where
  | lowPass
  | highPass
  | bandPass
  | notch
  | peak
  | lowShelf
  | highShelf
deriving DecidableEq, Repr

/-- A command. Its operands are the unsigned fields BAND, TYPE and DEPTH of the command word (R70, R71); a value
that fits its field may still be out of range, and is then refused when the command executes (R75). -/
inductive Instr where
  /-- OPC 0x00 (43_band_chain.md R167) -/
  | nop
  /-- OPC 0x01 (41_biquad_core.md R122) -/
  | initBand (band ftype depth : Nat)
  /-- OPC 0x02 (41_biquad_core.md R123) -/
  | updateBand (band : Nat)
  /-- OPC 0x03 (42_interleaved_bank.md R142) -/
  | setType (band ftype : Nat)
  /-- OPC 0x04 (42_interleaved_bank.md R141) -/
  | setInterleave (band depth : Nat)
  /-- OPC 0x05 (41_biquad_core.md R124) -/
  | processBand (band : Nat)
  /-- OPC 0x06 (42_interleaved_bank.md R143) -/
  | incrementIndex (band : Nat)
  /-- OPC 0x07 (41_biquad_core.md R125) -/
  | resetHistory
  /-- OPC 0x08 (43_band_chain.md R162) -/
  | tick
  /-- OPC 0x09 (40_coefficient_solver.md R104) -/
  | map
  /-- OPC 0x0A (40_coefficient_solver.md R105) -/
  | solve (ftype : Nat)
deriving DecidableEq, Repr

end Sys2Proof
end

