-- ==== Sys2Proof/WellFormed.lean ====
section
/-! DEFINITION. Which commands a command word can carry: every operand fits its 4-bit field (spec 30_encoding.md
R70, R71). Being in range is another question, asked when the command executes (R75). -/

namespace Sys2Proof

/-- An operand fits a 4-bit field of the command word (R70). -/
abbrev FitsField (n : Nat) : Prop := n < 16

/-- Every operand of the command fits its field. -/
def Instr.wellFormedB : Instr → Bool
  | .nop => true
  | .initBand b t n => decide (FitsField b) && decide (FitsField t) && decide (FitsField n)
  | .updateBand b => decide (FitsField b)
  | .setType b t => decide (FitsField b) && decide (FitsField t)
  | .setInterleave b n => decide (FitsField b) && decide (FitsField n)
  | .processBand b => decide (FitsField b)
  | .incrementIndex b => decide (FitsField b)
  | .resetHistory => true
  | .tick => true
  | .map => true
  | .solve t => decide (FitsField t)

/-- A command that some command word carries (R70, R71). -/
abbrev Instr.WellFormed (i : Instr) : Prop := i.wellFormedB = true

end Sys2Proof
end

