-- ==== Sys2Proof/Decode.lean ====
section
/-! DEFINITION. The decoder of a command word, by the match and mask of each row (spec 30_encoding.md R70 to R74),
and the encoder after it. A command is one 32-bit word delivered by one bus write: there is no fetch and no byte
order of instructions (20_memory.md R53, R63). -/

namespace Sys2Proof

/-- Why a word is no command; the machine refuses both as BAD_CMD (R73, R74). -/
inductive DecodeReject where
  /-- OPC is 0x0B to 0xFF (R73). -/
  | reservedOpcode (opc : Nat)
  /-- A bit of RSV, or of a field the command does not use, is set (R74). -/
  | reservedBits (w : Word)
deriving DecidableEq, Repr

/-- OPC, bits [31:24] (R70). -/
def fieldOpc (w : Word) : Nat := (w.extractLsb' 24 8).toNat

/-- BAND, bits [23:20], zero-extended (R70, R71). -/
def fieldBand (w : Word) : Nat := (w.extractLsb' 20 4).toNat

/-- TYPE, bits [19:16], zero-extended (R70, R71). -/
def fieldType (w : Word) : Nat := (w.extractLsb' 16 4).toNat

/-- DEPTH, bits [15:12], zero-extended (R70, R71). -/
def fieldDepth (w : Word) : Nat := (w.extractLsb' 12 4).toNat

/-- A row of the opcode map: the bits its mask fixes, their values, and the command it reads (R72). -/
structure OpRow where
  fixed : Word
  mask  : Word
  build : Word → Instr

/-- The opcode map of R72. -/
def opRows : List OpRow :=
  [ ⟨0x00000000, 0xFFFFFFFF, fun _ => .nop⟩,
    ⟨0x01000000, 0xFF000FFF, fun w => .initBand (fieldBand w) (fieldType w) (fieldDepth w)⟩,
    ⟨0x02000000, 0xFF0FFFFF, fun w => .updateBand (fieldBand w)⟩,
    ⟨0x03000000, 0xFF00FFFF, fun w => .setType (fieldBand w) (fieldType w)⟩,
    ⟨0x04000000, 0xFF0F0FFF, fun w => .setInterleave (fieldBand w) (fieldDepth w)⟩,
    ⟨0x05000000, 0xFF0FFFFF, fun w => .processBand (fieldBand w)⟩,
    ⟨0x06000000, 0xFF0FFFFF, fun w => .incrementIndex (fieldBand w)⟩,
    ⟨0x07000000, 0xFFFFFFFF, fun _ => .resetHistory⟩,
    ⟨0x08000000, 0xFFFFFFFF, fun _ => .tick⟩,
    ⟨0x09000000, 0xFFFFFFFF, fun _ => .map⟩,
    ⟨0x0A000000, 0xFFF0FFFF, fun w => .solve (fieldType w)⟩ ]

/-- The word matches the row: `(w AND mask) = match` (R74). -/
def OpRow.fits (r : OpRow) (w : Word) : Bool := w &&& r.mask == r.fixed

/-- The decoder: total, at most one row matches, and a word that matches none is rejected by name (R74, R79). -/
def decode (w : Word) : Except DecodeReject Instr :=
  match opRows.find? (fun r => r.fits w) with
  | some r => .ok (r.build w)
  | none => if fieldOpc w > 0x0A then .error (.reservedOpcode (fieldOpc w)) else .error (.reservedBits w)

/-- A word from its OPC, BAND, TYPE and DEPTH fields, RSV zero (R70). -/
def assemble (opc : BitVec 8) (band ftype depth : Nat) : Word :=
  opc ++ BitVec.ofNat 4 band ++ BitVec.ofNat 4 ftype ++ BitVec.ofNat 4 depth ++ 0#12

/-- The command word of a command (R70 to R72); every field the command does not use is zero (R74). -/
def encode : Instr → Word
  | .nop => assemble 0x00 0 0 0
  | .initBand b t n => assemble 0x01 b t n
  | .updateBand b => assemble 0x02 b 0 0
  | .setType b t => assemble 0x03 b t 0
  | .setInterleave b n => assemble 0x04 b 0 n
  | .processBand b => assemble 0x05 b 0 0
  | .incrementIndex b => assemble 0x06 b 0 0
  | .resetHistory => assemble 0x07 0 0 0
  | .tick => assemble 0x08 0 0 0
  | .map => assemble 0x09 0 0 0
  | .solve t => assemble 0x0A 0 t 0

/-- The command word whose low `nbits` bits are those of `w` and whose other bits are zero. -/
def tableWord (nbits w : Nat) : Word := BitVec.ofNat 32 (w % 2 ^ nbits)

/-- The command the decoder reads from a row's word, numbered as spec/opcode_table.json numbers its bits. -/
def decodeTableWord (nbits w : Nat) : Option Instr :=
  match decode (tableWord nbits w) with
  | .ok i => some i
  | .error _ => none

end Sys2Proof
end

