-- ==== Sys2Proof/Config.lean ====
section
/-! DEFINITION. The build-time parameters and open functions of spec 00_scope.md R8 and R9: arguments of every
computing definition, and one constant without a body that the machine's step uses. -/

namespace Sys2Proof

/-- AMP_LAW (R8, R93; 90_conflicts.md C1). -/
inductive AmpLaw where
  | cookbook
  | sqrt
deriving DecidableEq, Repr, Inhabited

/-- BPF_FORM (R8, R97). -/
inductive BpfForm where
  | peak0dB
  | skirt
deriving DecidableEq, Repr, Inhabited

/-- INC_POLICY (R8, R163; 90_conflicts.md C2). -/
inductive IncPolicy where
  | afterEach
  | between
deriving DecidableEq, Repr, Inhabited

/-- DRY_TAP (R8, R164). -/
inductive DryTap where
  | postInputGain
  | preInputGain
deriving DecidableEq, Repr, Inhabited

/-- The configuration of R8 and R9. -/
structure Params where
  ampLaw    : AmpLaw
  bpfForm   : BpfForm
  incPolicy : IncPolicy
  dryTap    : DryTap
  /-- `sin32` of R9: each result depends on its operand alone, nothing else is assumed. -/
  sin32     : F32 → F32
  /-- `cos32` of R9. -/
  cos32     : F32 → F32
  /-- `exp10_32` of R9, an approximation of 10^x. -/
  exp10     : F32 → F32
deriving Inhabited

/-- Property P1 of R9: a claim that relies on it takes it as a premise. -/
def Params.P1 (cfg : Params) : Prop :=
  cfg.exp10 0x00000000 = 0x3F800000 ∧ cfg.exp10 0x80000000 = 0x3F800000

/-- The configuration the block was built with. It has no body: a claim about the machine holds for every
configuration (R8, R9; assumption 5, safe). -/
opaque Config.build : Params

end Sys2Proof
end

