-- ==== Sys2Proof/Machine/Float.lean ====
section
/-! DEFINITION. The binary32 operators of spec 00_scope.md R12 under the laws of R13. Every finite binary32 number is a
whole multiple of 2^-149, so an operator computes the exact result in that unit, as a fraction of two naturals, and
rounds it once to nearest, ties to even. The corner results R12 and R13 do not spell out are those of the IEEE-754
standard they name (PRESUMED, unsafe, assumption 10). -/

namespace Sys2Proof.Machine

/-- `1.0` (R10). -/
def f32One : F32 := 0x3F800000
/-- `2.0`. -/
def f32Two : F32 := 0x40000000
/-- `-2.0`. -/
def f32NegTwo : F32 := 0xC0000000
/-- `20.0` (43_band_chain.md R161). -/
def f32Twenty : F32 := 0x41A00000
/-- `40.0` (40_coefficient_solver.md R93). -/
def f32Forty : F32 := 0x42200000
/-- `TWO_PI` (40_coefficient_solver.md R92). -/
def f32TwoPi : F32 := 0x40C90FDB
/-- `+0.0` (R10). -/
def f32Zero : F32 := 0x00000000
/-- The canonical quiet NaN (R13). -/
def canonNaN : F32 := 0x7FC00000

/-- What a pattern stands for: a NaN, an infinity, or the finite number `± mag × 2^-149`. -/
inductive FVal where
  | nan
  | inf (neg : Bool)
  | fin (neg : Bool) (mag : Nat)
deriving DecidableEq, Repr

/-- The sign, bit [31] (R10). -/
def fSign (a : F32) : Bool := a.msb

/-- The exponent, bits [30:23] (R10). -/
def fExp (a : F32) : Nat := (a.extractLsb' 23 8).toNat

/-- The fraction, bits [22:0] (R10). -/
def fFrac (a : F32) : Nat := (a.extractLsb' 0 23).toNat

/-- The value of a binary32 pattern; subnormals are kept (R13). -/
def fVal (a : F32) : FVal :=
  if fExp a = 255 then
    if fFrac a = 0 then .inf (fSign a) else .nan
  else if fExp a = 0 then .fin (fSign a) (fFrac a)
  else .fin (fSign a) ((2 ^ 23 + fFrac a) * 2 ^ (fExp a - 1))

/-- A sign and a magnitude pattern. -/
def fPack (neg : Bool) (mag : Nat) : F32 := BitVec.ofNat 32 ((if neg then 2 ^ 31 else 0) + mag)

/-- A signed infinity. -/
def fInf (neg : Bool) : F32 := fPack neg 0x7F800000

/-- A signed zero. -/
def fZero (neg : Bool) : F32 := fPack neg 0

/-- The quotient `n / u` rounded to a natural, to nearest, ties to even. -/
def roundEven (n u : Nat) : Nat :=
  if 2 * (n % u) > u ∨ (2 * (n % u) = u ∧ (n / u) % 2 = 1) then n / u + 1 else n / u

/-- How many low bits of the unit 2^-149 a number of `q` units loses in a 24-bit significand. -/
def lostBits (q : Nat) : Nat := q.log2 - 23

/-- The magnitude pattern (exponent and fraction) of `n / d` units of 2^-149, rounded once to nearest, ties to even;
overflow gives the pattern of infinity (R12, R13). A carry out of the significand moves into the exponent. -/
def roundMag (n d : Nat) : Nat :=
  min (lostBits (n / d) * 2 ^ 23 + roundEven n (d * 2 ^ lostBits (n / d))) 0x7F800000

/-- The binary32 number nearest `± n / d` units of 2^-149. -/
def fRound (neg : Bool) (n d : Nat) : F32 := fPack neg (roundMag n d)

/-- A signed magnitude as an integer. -/
def signedMag (neg : Bool) (mag : Nat) : Int := if neg then -(mag : Int) else mag

/-- The sign of an exact sum: its own, or, where it is zero, minus only for two minus signs. -/
def sumSign (s t : Bool) (x : Int) : Bool := if x = 0 then s && t else decide (x < 0)

/-- `a + b` (R12). -/
def fadd (a b : F32) : F32 :=
  match fVal a, fVal b with
  | .nan, _ => canonNaN
  | .inf _, .nan => canonNaN
  | .inf s, .inf t => if s = t then fInf s else canonNaN
  | .inf s, .fin _ _ => fInf s
  | .fin _ _, .nan => canonNaN
  | .fin _ _, .inf t => fInf t
  | .fin s m, .fin t n =>
    fRound (sumSign s t (signedMag s m + signedMag t n)) (signedMag s m + signedMag t n).natAbs 1

/-- The pattern with the sign bit flipped. -/
def flipSign (a : F32) : F32 := a ^^^ 0x80000000

/-- `a - b`: the sum with the sign of `b` flipped (R12). -/
def fsub (a b : F32) : F32 := fadd a (flipSign b)

/-- `a × b` (R12). -/
def fmul (a b : F32) : F32 :=
  match fVal a, fVal b with
  | .nan, _ => canonNaN
  | .inf _, .nan => canonNaN
  | .inf s, .inf t => fInf (s ^^ t)
  | .inf s, .fin t n => if n = 0 then canonNaN else fInf (s ^^ t)
  | .fin _ _, .nan => canonNaN
  | .fin s m, .inf t => if m = 0 then canonNaN else fInf (s ^^ t)
  | .fin s m, .fin t n => fRound (s ^^ t) (m * n) (2 ^ 149)

/-- `a ÷ b` (R12). -/
def fdiv (a b : F32) : F32 :=
  match fVal a, fVal b with
  | .nan, _ => canonNaN
  | .inf _, .nan => canonNaN
  | .inf _, .inf _ => canonNaN
  | .inf s, .fin t _ => fInf (s ^^ t)
  | .fin _ _, .nan => canonNaN
  | .fin s _, .inf t => fZero (s ^^ t)
  | .fin s m, .fin t n =>
    if n = 0 then if m = 0 then canonNaN else fInf (s ^^ t)
    else fRound (s ^^ t) (m * 2 ^ 149) n

/-- The integer square root, bit by bit from bit `k - 1` down, above the part `r` already found. -/
def isqrtFrom (n : Nat) : Nat → Nat → Nat
  | 0, r => r
  | k + 1, r => if (r + 2 ^ k) * (r + 2 ^ k) ≤ n then isqrtFrom n k (r + 2 ^ k) else isqrtFrom n k r

/-- The integer square root of a number below 2^428. -/
def isqrt (n : Nat) : Nat := isqrtFrom n 214 0

/-- `fsqrt(a)` (R12). The root of the exact radicand lies at `r` or strictly between `r` and `r + 1` units, and no
rounding boundary lies there, so the half-way value stands for every such root. -/
def fsqrt (a : F32) : F32 :=
  match fVal a with
  | .nan => canonNaN
  | .inf s => if s then canonNaN else fInf false
  | .fin s m =>
    if m = 0 then fZero s
    else if s then canonNaN
    else fRound false
      (2 * isqrt (m * 2 ^ 149) + if isqrt (m * 2 ^ 149) * isqrt (m * 2 ^ 149) = m * 2 ^ 149 then 0 else 1) 2

/-- A NaN pattern. -/
def isNaN (a : F32) : Bool := fVal a == .nan

/-- `-a`: flips the sign bit only (R12), under the laws of R13, so a NaN gives the canonical NaN (assumption 6). -/
def fneg (a : F32) : F32 := if isNaN a then canonNaN else flipSign a

/-- `feq(a, b)`: false if either is a NaN, true for the two zeros (R12). -/
def feq (a b : F32) : Bool :=
  match fVal a, fVal b with
  | .inf s, .inf t => s == t
  | .fin s m, .fin t n => signedMag s m == signedMag t n
  | _, _ => false

/-- `isfinite(a)`: neither an infinity nor a NaN (R12). -/
def isFinite (a : F32) : Bool := fExp a != 255

/-- One of the two zeros. -/
def isZero (a : F32) : Bool := a == f32Zero || a == 0x80000000

end Sys2Proof.Machine
end

