-- ==== Sys2Proof/Machine/State.lean ====
section
/-! DEFINITION. The architectural state (spec 10_state.md), the reasons a step can stop, and the reset state
(10_state.md R46, 70_reset_and_hazards.md R200). Every register is a named field: the block has no memory (20_memory.md
R50, assumption 8), so there is no list of cells. -/

namespace Sys2Proof.Machine

/-- CTRL.MODE: the kind of every band (R22). -/
inductive Mode where
  | biquad
  | interleaved
deriving DecidableEq, Repr

/-- The two channels, which share coefficients and nothing else (41_biquad_core.md R121). -/
inductive Channel where
  | left
  | right
deriving DecidableEq, Repr

/-- Six coefficients (R33, R38). -/
structure Coefs where
  b0 : F32
  b1 : F32
  b2 : F32
  a0 : F32
  a1 : F32
  a2 : F32
deriving DecidableEq, Repr

/-- The history of one channel of one slot: x[n-1], x[n-2], y[n-1], y[n-2] (R38). -/
structure Lane where
  x1 : F32
  x2 : F32
  y1 : F32
  y2 : F32
deriving DecidableEq, Repr

/-- The fourteen registers of one slot (R38). -/
structure Slot where
  coefs : Coefs
  left  : Lane
  right : Lane
deriving DecidableEq, Repr

/-- The registers of one band: staging values (R35), the fields of BAND_STAT (R36), the stored parameters (R37) and
the ten slots (R38). TYPE is the closed enumeration and ACTIVE one of the ten slots (assumption 7). -/
structure Band where
  freq   : F32
  gainDb : F32
  q      : F32
  ftype  : FilterType
  depth  : BitVec 4
  active : Fin 10
  dirty  : Bool
  stFs   : F32
  stFreq : F32
  stGain : F32
  stQ    : F32
  slots  : Vector Slot 10
deriving DecidableEq, Repr

/-- The solver scratch registers (R32, R33). -/
structure Solver where
  fs    : F32
  freq  : F32
  q     : F32
  gain  : F32
  omega : F32
  alpha : F32
  amp   : F32
  coefs : Coefs
deriving DecidableEq, Repr

/-- What the host does in one step: a register-bus transaction (20_memory.md R51), or a clock edge with `rst_n` low
(70_reset_and_hazards.md R200). -/
inductive HostInput where
  | read (addr : Addr)
  | write (addr : Addr) (data : Word) (strb : BitVec 4)
  | reset
deriving DecidableEq, Repr

/-- The state of the machine: the registers of 10_state.md R21, then three fields of the model's own. -/
structure State where
  /-- CTRL [0] (R22) -/
  mode : Mode
  /-- CTRL [2:1], OSF (R22) -/
  osf : BitVec 2
  /-- STATUS [7:0], the sticky bits (R23) -/
  sticky : BitVec 8
  /-- STATUS [11:8], LAST_ERR (R23) -/
  lastErr : BitVec 4
  /-- ERRINFO (R24) -/
  errInfo : Word
  /-- SAMPLE_RATE (R26) -/
  sampleRate : F32
  /-- IN_GAIN_DB (R27) -/
  inGainDb : F32
  /-- OUT_GAIN_DB (R27) -/
  outGainDb : F32
  /-- WET_MIX (R28) -/
  wetMix : F32
  /-- IN_L, IN_R (R29) -/
  inL : F32
  inR : F32
  /-- OUT_L, OUT_R (R30) -/
  outL : F32
  outR : F32
  /-- PRE_L, PRE_R (R31) -/
  preL : F32
  preR : F32
  /-- SOLVE_FS to SOLVE_A2 (R32, R33) -/
  solver : Solver
  /-- BAND[0] to BAND[4] (R34) -/
  bands : Vector Band 5
  /-- The host's inputs still to come, the next one first. The model's own (R20, assumption 1). -/
  pending : List HostInput
  /-- `prdata` of the last transaction, where it was a read (20_memory.md R51). The model's own (assumption 2). -/
  prdata : Option Word
  /-- `pslverr` of the last transaction (20_memory.md R51). The model's own (assumption 2). -/
  pslverr : Bool
deriving DecidableEq, Repr

/-- The reasons a step can fault: none. The spec refuses what it cannot carry out, records the refusal and takes the
next transaction (60_exceptions.md R183, R188), which is a next state; a numeric result never stops a command (R186). -/
inductive Fault where
deriving DecidableEq, Repr

/-- The reasons a step can have no meaning. -/
inductive Refusal where
  /-- Raised by an arm of `exec` whose command has no meaning yet: none is left. Safe: the model stops where the
  block goes on. -/
  | notModelled (mnemonic : String)
deriving DecidableEq, Repr

/-- The pass-through coefficients of reset: b0 = a0 = 1.0, the rest +0.0 (R39). -/
def Coefs.reset : Coefs := ⟨0x3F800000, 0, 0, 0x3F800000, 0, 0⟩

/-- Four history words of +0.0 (R40). -/
def Lane.zero : Lane := ⟨0, 0, 0, 0⟩

/-- A slot after reset (R39, R40). -/
def Slot.reset : Slot := ⟨Coefs.reset, Lane.zero, Lane.zero⟩

/-- A band after reset: BAND_STAT = 0x00001010, everything else +0.0, ten reset slots (R46). -/
def Band.reset : Band :=
  { freq := 0, gainDb := 0, q := 0, ftype := .lowPass, depth := 1, active := 0, dirty := true
    stFs := 0, stFreq := 0, stGain := 0, stQ := 0, slots := Vector.replicate 10 Slot.reset }

/-- The scratch registers after reset (R46). -/
def Solver.reset : Solver :=
  { fs := 0, freq := 0, q := 0, gain := 0, omega := 0, alpha := 0, amp := 0, coefs := ⟨0, 0, 0, 0, 0, 0⟩ }

/-- The machine right after reset (R46, R200), idle, with no transaction to come (R201, assumptions 1 to 3). -/
def State.reset : State :=
  { mode := .biquad, osf := 0, sticky := 0, lastErr := 0, errInfo := 0
    sampleRate := 0, inGainDb := 0, outGainDb := 0, wetMix := 0, inL := 0, inR := 0
    outL := 0, outR := 0, preL := 0, preR := 0
    solver := Solver.reset, bands := Vector.replicate 5 Band.reset
    pending := [], prdata := none, pslverr := false }

end Sys2Proof.Machine
end

