-- ==== Sys2Proof/Machine/Flags.lean ====
section
/-! DEFINITION. STATUS (spec 10_state.md R23): the refusal causes and their codes (60_exceptions.md R181), the refusal
record (R183), the NONFINITE report (R186), the write-one-to-clear (20_memory.md R56) and the read word. -/

namespace Sys2Proof.Machine

/-- The causes of a refusal (R181). -/
inductive Cause where
  | badCmd
  | badBand
  | modeErr
  | badType
  | badDepth
  | busErr
  | badValue
deriving DecidableEq, Repr

/-- The code of a cause, as LAST_ERR records it (R181). -/
def Cause.code : Cause → BitVec 4
  | .badCmd => 1
  | .badBand => 2
  | .modeErr => 3
  | .badType => 4
  | .badDepth => 5
  | .busErr => 6
  | .badValue => 7

/-- The sticky bit of a cause: STATUS bit (code - 1) (R181, R183). -/
def Cause.bit (c : Cause) : BitVec 8 := 1#8 <<< (c.code.toNat - 1)

/-- STATUS bit [7], NONFINITE (R23). -/
def nonfiniteBit : BitVec 8 := 0x80

/-- `Refuse(code, info)`: the one operation that records a refusal (R183). The bus answers `pslverr = 1`; a refused
read's `prdata = 0` is set by the read itself. -/
def State.refuse (s : State) (c : Cause) (info : Word) : State :=
  { s with sticky := s.sticky ||| c.bit, lastErr := c.code, errInfo := info, pslverr := true }

/-- `x[STATUS].NONFINITE <- 1` if something was not finite (R186); LAST_ERR and ERRINFO are left alone. -/
def State.noteNonfinite (s : State) (bad : Bool) : State :=
  { s with sticky := if bad then s.sticky ||| nonfiniteBit else s.sticky }

/-- Writing ones to STATUS [7:0] clears those bits; the rest of the data is ignored (R23, R56). -/
def State.clearSticky (s : State) (v : Word) : State :=
  { s with sticky := s.sticky &&& ~~~ (v.extractLsb' 0 8) }

/-- The word a read of STATUS returns (R23). -/
def State.statusWord (s : State) : Word := 0#20 ++ s.lastErr ++ s.sticky

/-- `CheckCoefs` reports the set: a value is not finite, or a0 is a zero (40_coefficient_solver.md R102). -/
def Coefs.degenerate (c : Coefs) : Bool :=
  !(isFinite c.b0 && isFinite c.b1 && isFinite c.b2 && isFinite c.a0 && isFinite c.a1 && isFinite c.a2) || isZero c.a0

end Sys2Proof.Machine
end

