-- ==== Sys2Proof/Machine/Operands.lean ====
section
/-! DEFINITION. The operand checks of a command (spec 30_encoding.md R75, 60_exceptions.md R181): each gives the
operand's meaning or the cause of the refusal. A command runs its checks in the order of R184 and before its first
state change (R183). -/

namespace Sys2Proof.Machine

/-- The code of a filter type (30_encoding.md R76). -/
def typeCode : FilterType → Nat
  | .lowPass => 0
  | .highPass => 1
  | .bandPass => 2
  | .notch => 3
  | .peak => 4
  | .lowShelf => 5
  | .highShelf => 6

/-- BAND above 4 is BAD_BAND (R75). -/
def checkBand (b : Nat) : Except Cause (Fin 5) :=
  if h : b < 5 then .ok ⟨b, h⟩ else .error .badBand

/-- TYPE above 6 is BAD_TYPE; a lower code is a filter type (R75, R76). -/
def checkType (t : Nat) : Except Cause FilterType :=
  match t with
  | 0 => .ok .lowPass
  | 1 => .ok .highPass
  | 2 => .ok .bandPass
  | 3 => .ok .notch
  | 4 => .ok .peak
  | 5 => .ok .lowShelf
  | 6 => .ok .highShelf
  | _ => .error .badType

/-- DEPTH 0 or above 10 is BAD_DEPTH (R75). -/
def checkDepth (n : Nat) : Except Cause (BitVec 4) :=
  if 1 ≤ n ∧ n ≤ 10 then .ok (BitVec.ofNat 4 n) else .error .badDepth

/-- A command of the interleaved bank in BIQUAD mode is MODE_ERR (42_interleaved_bank.md R140). -/
def checkInterleaved (m : Mode) : Except Cause Unit :=
  match m with
  | .biquad => .error .modeErr
  | .interleaved => .ok ()

end Sys2Proof.Machine
end

