-- ==== Sys2Proof/Machine/RegMap.lean ====
section
/-! DEFINITION. The address map of the register space (spec 20_memory.md R66, R67; 10_state.md sections 2 to 4). -/

namespace Sys2Proof.Machine

/-- The global and solver registers (10_state.md section 2). -/
inductive GlobalReg where
  | ctrl | status | errInfo | cmd | sampleRate | inGainDb | outGainDb | wetMix
  | inL | inR | outL | outR | preL | preR
  | solveFs | solveFreq | solveQ | solveGain | solveOmega | solveAlpha | solveAmp
  | solveB0 | solveB1 | solveB2 | solveA0 | solveA1 | solveA2
deriving DecidableEq, Repr

/-- The eight registers of a band (10_state.md R34). -/
inductive BandReg where
  | freq | gainDb | q | bandStat | stFs | stFreq | stGain | stQ
deriving DecidableEq, Repr

/-- The fourteen registers of a slot (10_state.md R38). -/
inductive SlotReg where
  | b0 | b1 | b2 | a0 | a1 | a2 | xl1 | xl2 | yl1 | yl2 | xr1 | xr2 | yr1 | yr2
deriving DecidableEq, Repr

/-- An architectural register. -/
inductive Reg where
  | global (r : GlobalReg)
  | band (b : Fin 5) (r : BandReg)
  | slot (b : Fin 5) (k : Fin 10) (r : SlotReg)
deriving DecidableEq, Repr

/-- The offset of each global register (10_state.md section 2). -/
def globalOffset : GlobalReg → Nat
  | .ctrl => 0x000
  | .status => 0x004
  | .errInfo => 0x008
  | .cmd => 0x00C
  | .sampleRate => 0x010
  | .inGainDb => 0x014
  | .outGainDb => 0x018
  | .wetMix => 0x01C
  | .inL => 0x020
  | .inR => 0x024
  | .outL => 0x028
  | .outR => 0x02C
  | .preL => 0x030
  | .preR => 0x034
  | .solveFs => 0x040
  | .solveFreq => 0x044
  | .solveQ => 0x048
  | .solveGain => 0x04C
  | .solveOmega => 0x050
  | .solveAlpha => 0x054
  | .solveAmp => 0x058
  | .solveB0 => 0x060
  | .solveB1 => 0x064
  | .solveB2 => 0x068
  | .solveA0 => 0x06C
  | .solveA1 => 0x070
  | .solveA2 => 0x074

/-- The global registers in address order. -/
def globalRegs : List GlobalReg :=
  [.ctrl, .status, .errInfo, .cmd, .sampleRate, .inGainDb, .outGainDb, .wetMix,
   .inL, .inR, .outL, .outR, .preL, .preR,
   .solveFs, .solveFreq, .solveQ, .solveGain, .solveOmega, .solveAlpha, .solveAmp,
   .solveB0, .solveB1, .solveB2, .solveA0, .solveA1, .solveA2]

/-- The registers of a band in address order (R67). -/
def bandRegs : List BandReg := [.freq, .gainDb, .q, .bandStat, .stFs, .stFreq, .stGain, .stQ]

/-- The registers of a slot in address order (10_state.md R38). -/
def slotRegs : List SlotReg :=
  [.b0, .b1, .b2, .a0, .a1, .a2, .xl1, .xl2, .yl1, .yl2, .xr1, .xr2, .yr1, .yr2]

/-- The offset of a band register from its band's base (10_state.md R34). -/
def bandOffset : BandReg → Nat
  | .freq => 0x000
  | .gainDb => 0x004
  | .q => 0x008
  | .bandStat => 0x00C
  | .stFs => 0x010
  | .stFreq => 0x014
  | .stGain => 0x018
  | .stQ => 0x01C

/-- The offset of a slot register from its slot's base (10_state.md R38). -/
def slotOffset : SlotReg → Nat
  | .b0 => 0x00
  | .b1 => 0x04
  | .b2 => 0x08
  | .a0 => 0x0C
  | .a1 => 0x10
  | .a2 => 0x14
  | .xl1 => 0x18
  | .xl2 => 0x1C
  | .yl1 => 0x20
  | .yl2 => 0x24
  | .xr1 => 0x28
  | .xr2 => 0x2C
  | .yr1 => 0x30
  | .yr2 => 0x34

/-- `BB(b)` (10_state.md R34). -/
def bandBase (b : Fin 5) : Nat := 0x400 * (b.val + 1)

/-- `SB(b, s)` (10_state.md R34). -/
def slotBase (b : Fin 5) (k : Fin 10) : Nat := bandBase b + 0x100 + 0x40 * k.val

/-- The byte address of a register (R66). -/
def Reg.addrNat : Reg → Nat
  | .global r => globalOffset r
  | .band b r => bandBase b + bandOffset r
  | .slot b k r => slotBase b k + slotOffset r

/-- The byte address of a register, on the bus (R66). -/
def Reg.addr (r : Reg) : Addr := BitVec.ofNat 13 r.addrNat

/-- The register of band `b` at the word offset `o` of its block (R67). -/
def bandRegAt (b : Fin 5) (o : Nat) : Option Reg :=
  if o < 0x020 then (bandRegs[o / 4]?).map (.band b)
  else if h : 0x100 ≤ o ∧ o < 0x380 then
    (slotRegs[(o - 0x100) % 0x40 / 4]?).map (.slot b ⟨(o - 0x100) / 0x40, by omega⟩)
  else none

/-- The register at an aligned byte address, if one is mapped there (R67); none at a misaligned one, which is refused
before it is decoded (R54). -/
def regAt (a : Addr) : Option Reg :=
  if a.toNat % 4 ≠ 0 then none
  else if a.toNat < 0x400 then
    (globalRegs.find? (fun r => globalOffset r == a.toNat)).map .global
  else if h : a.toNat < 0x1800 then
    bandRegAt ⟨a.toNat / 0x400 - 1, by omega⟩ (a.toNat % 0x400)
  else none

end Sys2Proof.Machine
end

