-- ==== Sys2Proof/Machine/Ops.lean ====
section
/-! DEFINITION. The named operations on registers: bands and slots, reading and writing a register by name
(spec 20_memory.md R55, R56), clearing history, the mode change (42_interleaved_bank.md R145), and how a command ends
(60_exceptions.md R183). A refusal is the block's only exception, and its record `State.refuse` stands with the flags
it sets; nothing is returned from (R189). -/

namespace Sys2Proof.Machine

/-- Applies `f` to every element with its index, in order. -/
def mapIdxFrom {α : Type} (f : Nat → α → α) : Nat → List α → List α
  | _, [] => []
  | k, x :: xs => f k x :: mapIdxFrom f (k + 1) xs

theorem mapIdxFrom_length {α : Type} (f : Nat → α → α) (k : Nat) (l : List α) :
    (mapIdxFrom f k l).length = l.length := by
  induction l generalizing k with
  | nil => rfl
  | cons x xs ih => simp [mapIdxFrom, ih]

/-- A loop over all elements of a fixed register array, `for s in 0..n-1`. -/
def forEach {α : Type} {n : Nat} (f : Nat → α → α) (v : Vector α n) : Vector α n :=
  ⟨⟨mapIdxFrom f 0 v.toList⟩, by simp [mapIdxFrom_length]⟩

/-- Band `b`. -/
def State.band (s : State) (b : Fin 5) : Band := s.bands.get b

/-- Writes band `b`. -/
def State.setBand (s : State) (b : Fin 5) (x : Band) : State := { s with bands := s.bands.set b x }

/-- Slot `k` of a band. -/
def Band.slot (x : Band) (k : Fin 10) : Slot := x.slots.get k

/-- Writes slot `k` of a band. -/
def Band.setSlot (x : Band) (k : Fin 10) (y : Slot) : Band := { x with slots := x.slots.set k y }

/-- The history of a channel. -/
def Slot.lane (y : Slot) : Channel → Lane
  | .left => y.left
  | .right => y.right

/-- Writes the history of a channel. -/
def Slot.setLane (y : Slot) (ch : Channel) (h : Lane) : Slot :=
  match ch with
  | .left => { y with left := h }
  | .right => { y with right := h }

/-- The eight history words of a slot go to +0.0 (10_state.md R40). -/
def Slot.clearHistory (y : Slot) : Slot := { y with left := Lane.zero, right := Lane.zero }

/-- The history of all ten slots goes to +0.0. -/
def Band.clearHistory (x : Band) : Band := { x with slots := forEach (fun _ y => y.clearHistory) x.slots }

/-- The six coefficients of all ten slots (10_state.md R39). -/
def Band.setCoefs (x : Band) (c : Coefs) : Band :=
  { x with slots := forEach (fun _ y => { y with coefs := c }) x.slots }

/-- ACTIVE advances by one modulo DEPTH (42_interleaved_bank.md R143). The further `% 10` changes nothing while
DEPTH is 1 to 10 (10_state.md R41; assumption 7). -/
def Band.incIndex (x : Band) : Band :=
  { x with active := ⟨(x.active.val + 1) % x.depth.toNat % 10, Nat.mod_lt _ (by decide)⟩ }

/-- What a mode change does to a band (42_interleaved_bank.md R145). -/
def Band.modeChange (x : Band) : Band := { x.clearHistory with depth := 1, active := 0 }

/-- The order of the chain: bands 0, 1, 2, 3, 4 (43_band_chain.md R160). -/
def bandOrder : List (Fin 5) := [0, 1, 2, 3, 4]

/-- `x[CTRL].MODE` as a bit (10_state.md R22). -/
def modeBit : Mode → BitVec 1
  | .biquad => 0
  | .interleaved => 1

/-- The word a read of CTRL returns (10_state.md R22). -/
def State.ctrlWord (s : State) : Word := 0#29 ++ s.osf ++ modeBit s.mode

/-- The mode a written CTRL word asks for (10_state.md R22). -/
def writtenMode (v : Word) : Mode := if v.extractLsb' 0 1 = 0 then .biquad else .interleaved

/-- The OSF field of a written CTRL word (10_state.md R22). -/
def writtenOsf (v : Word) : BitVec 2 := v.extractLsb' 1 2

/-- A CTRL write (10_state.md R22): refused as a whole for OSF = 3; else OSF takes its field, and a MODE that differs
is taken with the effects of 42_interleaved_bank.md R145. -/
def State.writeCtrl (s : State) (v : Word) : State :=
  if writtenOsf v = 3 then s.refuse .badValue v
  else if writtenMode v = s.mode then { s with osf := writtenOsf v }
  else { s with osf := writtenOsf v, mode := writtenMode v, bands := forEach (fun _ x => x.modeChange) s.bands }

/-- The word a read of BAND_STAT returns (10_state.md R36). -/
def Band.statWord (x : Band) : Word :=
  0#19 ++ BitVec.ofBool x.dirty ++ BitVec.ofNat 4 x.active.val ++ x.depth ++ 0#1 ++ BitVec.ofNat 3 (typeCode x.ftype)

/-- The value of a global register (20_memory.md R55); CMD reads as 0 (10_state.md R25). -/
def State.readGlobal (s : State) : GlobalReg → Word
  | .ctrl => s.ctrlWord
  | .status => s.statusWord
  | .errInfo => s.errInfo
  | .cmd => 0
  | .sampleRate => s.sampleRate
  | .inGainDb => s.inGainDb
  | .outGainDb => s.outGainDb
  | .wetMix => s.wetMix
  | .inL => s.inL
  | .inR => s.inR
  | .outL => s.outL
  | .outR => s.outR
  | .preL => s.preL
  | .preR => s.preR
  | .solveFs => s.solver.fs
  | .solveFreq => s.solver.freq
  | .solveQ => s.solver.q
  | .solveGain => s.solver.gain
  | .solveOmega => s.solver.omega
  | .solveAlpha => s.solver.alpha
  | .solveAmp => s.solver.amp
  | .solveB0 => s.solver.coefs.b0
  | .solveB1 => s.solver.coefs.b1
  | .solveB2 => s.solver.coefs.b2
  | .solveA0 => s.solver.coefs.a0
  | .solveA1 => s.solver.coefs.a1
  | .solveA2 => s.solver.coefs.a2

/-- The value of a band register (10_state.md R34 to R37). -/
def Band.read (x : Band) : BandReg → Word
  | .freq => x.freq
  | .gainDb => x.gainDb
  | .q => x.q
  | .bandStat => x.statWord
  | .stFs => x.stFs
  | .stFreq => x.stFreq
  | .stGain => x.stGain
  | .stQ => x.stQ

/-- The value of a slot register (10_state.md R38). -/
def Slot.read (y : Slot) : SlotReg → Word
  | .b0 => y.coefs.b0
  | .b1 => y.coefs.b1
  | .b2 => y.coefs.b2
  | .a0 => y.coefs.a0
  | .a1 => y.coefs.a1
  | .a2 => y.coefs.a2
  | .xl1 => y.left.x1
  | .xl2 => y.left.x2
  | .yl1 => y.left.y1
  | .yl2 => y.left.y2
  | .xr1 => y.right.x1
  | .xr2 => y.right.x2
  | .yr1 => y.right.y1
  | .yr2 => y.right.y2

/-- `x[NAME]`: the value of a register (00_scope.md R11, 20_memory.md R55). -/
def State.readReg (s : State) : Reg → Word
  | .global r => s.readGlobal r
  | .band b r => (s.band b).read r
  | .slot b k r => ((s.band b).slot k).read r

/-- A write to a global register by its access type: RW takes the data, CTRL and STATUS have their own rules, RO
ignores it (20_memory.md R56). A write to CMD holds nothing here: the bus runs the command (20_memory.md R59). -/
def State.writeGlobal (s : State) (r : GlobalReg) (v : Word) : State :=
  match r with
  | .ctrl => s.writeCtrl v
  | .status => s.clearSticky v
  | .errInfo => s
  | .cmd => s
  | .sampleRate => { s with sampleRate := v }
  | .inGainDb => { s with inGainDb := v }
  | .outGainDb => { s with outGainDb := v }
  | .wetMix => { s with wetMix := v }
  | .inL => { s with inL := v }
  | .inR => { s with inR := v }
  | .outL => s
  | .outR => s
  | .preL => s
  | .preR => s
  | .solveFs => { s with solver := { s.solver with fs := v } }
  | .solveFreq => { s with solver := { s.solver with freq := v } }
  | .solveQ => { s with solver := { s.solver with q := v } }
  | .solveGain => { s with solver := { s.solver with gain := v } }
  | .solveOmega => { s with solver := { s.solver with omega := v } }
  | .solveAlpha => { s with solver := { s.solver with alpha := v } }
  | .solveAmp => s
  | .solveB0 => s
  | .solveB1 => s
  | .solveB2 => s
  | .solveA0 => s
  | .solveA1 => s
  | .solveA2 => s

/-- A write to a band register: FREQ, GAIN_DB and Q take the data, the others ignore it (10_state.md R35 to R37). -/
def Band.write (x : Band) (r : BandReg) (v : Word) : Band :=
  match r with
  | .freq => { x with freq := v }
  | .gainDb => { x with gainDb := v }
  | .q => { x with q := v }
  | .bandStat => x
  | .stFs => x
  | .stFreq => x
  | .stGain => x
  | .stQ => x

/-- A write to a register, CMD apart (20_memory.md R56). Slot registers are read-only (10_state.md R38). -/
def State.writeReg (s : State) (r : Reg) (v : Word) : State :=
  match r with
  | .global g => s.writeGlobal g v
  | .band b br => s.setBand b ((s.band b).write br v)
  | .slot _ _ _ => s

/-- How a command ends: with its effect, or as a refusal of its command word, with no other effect
(60_exceptions.md R183). The command word is that of the command: a word that decodes has every other bit zero
(30_encoding.md R74, assumption 12). -/
def State.finish (s : State) (i : Instr) (r : Except Cause State) : State :=
  match r with
  | .ok t => t
  | .error c => s.refuse c (encode i)

end Sys2Proof.Machine
end

