-- ==== Sys2Proof/Machine/Bank.lean ====
section
/-! DEFINITION. The commands that only the interleaved bank has (spec 42_interleaved_bank.md): SET_TYPE, SET_INTERLEAVE
and INCREMENT_INDEX. Each is refused as BAD_BAND first, then as MODE_ERR in BIQUAD mode (60_exceptions.md R184). -/

namespace Sys2Proof.Machine

/-- SET_TYPE's effect on its band (R142): the type, and DIRTY so that the next update recomputes. -/
def Band.setTypeTo (x : Band) (t : FilterType) : Band := { x with ftype := t, dirty := true }

/-- Slots `old` to `n - 1` start from zero history; the others keep theirs (R141). -/
def zeroIncluded (old n : Nat) (slots : Vector Slot 10) : Vector Slot 10 :=
  forEach (fun k y => if old ≤ k ∧ k < n then y.clearHistory else y) slots

/-- SET_INTERLEAVE's effect on its band (R141): newly included slots are zeroed, DEPTH is set, and a cursor that the
new depth leaves outside goes to 0. -/
def Band.setDepthTo (x : Band) (d : BitVec 4) : Band :=
  { x with
    slots := zeroIncluded x.depth.toNat d.toNat x.slots
    depth := d
    active := if x.active.val ≥ d.toNat then 0 else x.active }

/-- SET_TYPE (R142). -/
def execSetType (band ftype : Nat) (s : State) : Host.Outcome State Fault Refusal :=
  .next (s.finish (.setType band ftype) (do
    let b ← checkBand band
    checkInterleaved s.mode
    let t ← checkType ftype
    .ok (s.setBand b ((s.band b).setTypeTo t))))

/-- SET_INTERLEAVE (R141). -/
def execSetInterleave (band depth : Nat) (s : State) : Host.Outcome State Fault Refusal :=
  .next (s.finish (.setInterleave band depth) (do
    let b ← checkBand band
    checkInterleaved s.mode
    let d ← checkDepth depth
    .ok (s.setBand b ((s.band b).setDepthTo d))))

/-- INCREMENT_INDEX (R143). -/
def execIncrementIndex (band : Nat) (s : State) : Host.Outcome State Fault Refusal :=
  .next (s.finish (.incrementIndex band) (do
    let b ← checkBand band
    checkInterleaved s.mode
    .ok (s.setBand b (s.band b).incIndex)))

end Sys2Proof.Machine
end

