-- ==== Sys2Proof/Machine/Solver.lean ====
section
/-! DEFINITION. The coefficient solver unit (spec 40_coefficient_solver.md): the frequency mapping, the gain-to-amplitude
path, the seven formula rows, and the commands MAP and SOLVE. The functions are pure (R90) and take the configuration as
an argument; each formula is the tree its rule writes (R12). -/

namespace Sys2Proof.Machine

/-- `Map(fs, f, Q)`: omega and alpha (R91). -/
def mapFreq (cfg : Params) (fs f q : F32) : F32 × F32 :=
  let omega := fdiv (fmul f32TwoPi f) fs
  (omega, fdiv (cfg.sin32 omega) (fmul f32Two q))

/-- `Amp(g)` (R93). -/
def ampOf (cfg : Params) (g : F32) : F32 :=
  let e := cfg.exp10 (fdiv g f32Forty)
  match cfg.ampLaw with
  | .cookbook => e
  | .sqrt => fsqrt e

/-- `a1` of rows 0 to 4: `-2.0 × c`. -/
def commonA1 (c : F32) : F32 := fmul f32NegTwo c

/-- LowPass (R95). -/
def rowLowPass (c alpha : F32) : Coefs :=
  let u := fsub f32One c
  { b0 := fdiv u f32Two, b1 := u, b2 := fdiv u f32Two
    a0 := fadd f32One alpha, a1 := commonA1 c, a2 := fsub f32One alpha }

/-- HighPass (R96). -/
def rowHighPass (c alpha : F32) : Coefs :=
  let u := fadd f32One c
  { b0 := fdiv u f32Two, b1 := fneg u, b2 := fdiv u f32Two
    a0 := fadd f32One alpha, a1 := commonA1 c, a2 := fsub f32One alpha }

/-- The `b0` of BandPass: alpha, or half the sine, as BPF_FORM says (R97). -/
def bandPassB0 (cfg : Params) (s alpha : F32) : F32 :=
  match cfg.bpfForm with
  | .peak0dB => alpha
  | .skirt => fdiv s f32Two

/-- BandPass (R97). -/
def rowBandPass (cfg : Params) (c s alpha : F32) : Coefs :=
  let h := bandPassB0 cfg s alpha
  { b0 := h, b1 := f32Zero, b2 := fneg h
    a0 := fadd f32One alpha, a1 := commonA1 c, a2 := fsub f32One alpha }

/-- Notch (R98). -/
def rowNotch (c alpha : F32) : Coefs :=
  { b0 := f32One, b1 := commonA1 c, b2 := f32One
    a0 := fadd f32One alpha, a1 := commonA1 c, a2 := fsub f32One alpha }

/-- Peak (R99). -/
def rowPeak (c alpha amp : F32) : Coefs :=
  let p := fmul alpha amp
  let q := fdiv alpha amp
  { b0 := fadd f32One p, b1 := commonA1 c, b2 := fsub f32One p
    a0 := fadd f32One q, a1 := commonA1 c, a2 := fsub f32One q }

/-- `k`, the compound term `2·sqrt(A)·alpha` of the shelves (R100, R101). -/
def shelfK (alpha amp : F32) : F32 := fmul (fmul f32Two (fsqrt amp)) alpha

/-- `P - Mc` of the shelves: `(A + 1) - (A - 1) × c`. -/
def shelfMinus (c amp : F32) : F32 := fsub (fadd amp f32One) (fmul (fsub amp f32One) c)

/-- `P + Mc` of the shelves. -/
def shelfPlus (c amp : F32) : F32 := fadd (fadd amp f32One) (fmul (fsub amp f32One) c)

/-- `M - Pc` of the shelves: `(A - 1) - (A + 1) × c`. -/
def shelfCrossMinus (c amp : F32) : F32 := fsub (fsub amp f32One) (fmul (fadd amp f32One) c)

/-- `M + Pc` of the shelves. -/
def shelfCrossPlus (c amp : F32) : F32 := fadd (fsub amp f32One) (fmul (fadd amp f32One) c)

/-- LowShelf (R100). -/
def rowLowShelf (c alpha amp : F32) : Coefs :=
  { b0 := fmul amp (fadd (shelfMinus c amp) (shelfK alpha amp))
    b1 := fmul (fmul f32Two amp) (shelfCrossMinus c amp)
    b2 := fmul amp (fsub (shelfMinus c amp) (shelfK alpha amp))
    a0 := fadd (shelfPlus c amp) (shelfK alpha amp)
    a1 := fmul f32NegTwo (shelfCrossPlus c amp)
    a2 := fsub (shelfPlus c amp) (shelfK alpha amp) }

/-- HighShelf (R101). -/
def rowHighShelf (c alpha amp : F32) : Coefs :=
  { b0 := fmul amp (fadd (shelfPlus c amp) (shelfK alpha amp))
    b1 := fmul (fmul f32NegTwo amp) (shelfCrossPlus c amp)
    b2 := fmul amp (fsub (shelfPlus c amp) (shelfK alpha amp))
    a0 := fadd (shelfMinus c amp) (shelfK alpha amp)
    a1 := fmul f32Two (shelfCrossMinus c amp)
    a2 := fsub (shelfMinus c amp) (shelfK alpha amp) }

/-- The filter-type lookup table: the formula row of a type (R94). -/
def formulaRow (cfg : Params) (t : FilterType) (c s alpha amp : F32) : Coefs :=
  match t with
  | .lowPass => rowLowPass c alpha
  | .highPass => rowHighPass c alpha
  | .bandPass => rowBandPass cfg c s alpha
  | .notch => rowNotch c alpha
  | .peak => rowPeak c alpha amp
  | .lowShelf => rowLowShelf c alpha amp
  | .highShelf => rowHighShelf c alpha amp

/-- `Solve(t, omega, alpha, g)`: the six coefficients and A (R94). -/
def solveCoefs (cfg : Params) (t : FilterType) (omega alpha g : F32) : Coefs × F32 :=
  let amp := ampOf cfg g
  (formulaRow cfg t (cfg.cos32 omega) (cfg.sin32 omega) alpha amp, amp)

/-- MAP under a configuration (R104). -/
def runMap (cfg : Params) (s : State) : State :=
  let r := mapFreq cfg s.solver.fs s.solver.freq s.solver.q
  { s with solver := { s.solver with omega := r.1, alpha := r.2 } }

/-- SOLVE's effect for a filter type under a configuration (R105): the amplitude and the set are stored as computed,
and CheckCoefs reports them (R102). -/
def runSolve (cfg : Params) (t : FilterType) (s : State) : State :=
  let r := solveCoefs cfg t s.solver.omega s.solver.alpha s.solver.gain
  { s with solver := { s.solver with amp := r.2, coefs := r.1 } }.noteNonfinite r.1.degenerate

/-- MAP (R104). -/
def execMap (s : State) : Host.Outcome State Fault Refusal :=
  .next (runMap Config.build s)

/-- SOLVE (R105): TYPE above 6 is refused as BAD_TYPE. -/
def execSolve (ftype : Nat) (s : State) : Host.Outcome State Fault Refusal :=
  .next (s.finish (.solve ftype) (do
    let t ← checkType ftype
    .ok (runSolve Config.build t s)))

end Sys2Proof.Machine
end

