-- ==== Sys2Proof/Machine/Filter.lean ====
section
/-! DEFINITION. The biquad filter core and the lazy update (spec 41_biquad_core.md): the Direct-Form-I step, Update and
Recompute, and the commands INIT_BAND, UPDATE_BAND, PROCESS_BAND and RESET_HISTORY. -/

namespace Sys2Proof.Machine

/-- The output of the Direct-Form-I recursion, left to right, the division by a0 last (R120). -/
def df1Output (c : Coefs) (h : Lane) (x : F32) : F32 :=
  fdiv (fsub (fsub (fadd (fadd (fmul c.b0 x) (fmul c.b1 h.x1)) (fmul c.b2 h.x2)) (fmul c.a1 h.y1)) (fmul c.a2 h.y2)) c.a0

/-- The history shifted by one sample: x[n-2] ← x[n-1], x[n-1] ← x[n], the same for y (R120). -/
def Lane.shift (h : Lane) (x y : F32) : Lane := ⟨x, h.x1, y, h.y1⟩

/-- `DF1(b, s, ch, xin)` (R120): the output, and the state with that channel's history of that slot shifted and
NONFINITE set if the output is not finite. -/
def df1 (b : Fin 5) (k : Fin 10) (ch : Channel) (x : F32) (s : State) : F32 × State :=
  let slot := (s.band b).slot k
  let y := df1Output slot.coefs (slot.lane ch) x
  (y, (s.setBand b ((s.band b).setSlot k (slot.setLane ch ((slot.lane ch).shift x y)))).noteNonfinite (!isFinite y))

/-- `Step(b, s, xl, xr)`: the left lane, then the right lane (R121). -/
def stepPair (b : Fin 5) (k : Fin 10) (x : F32 × F32) (s : State) : (F32 × F32) × State :=
  let l := df1 b k .left x.1 s
  let r := df1 b k .right x.2 l.2
  ((l.1, r.1), r.2)

/-- The coefficient set of a band of type `t` for four parameters: Map, then Solve (R123). -/
def bandCoefs (cfg : Params) (t : FilterType) (fs f g q : F32) : Coefs :=
  let m := mapFreq cfg fs f q
  (solveCoefs cfg t m.1 m.2 g).1

/-- `Recompute(b, fs, f, g, Q)` from the staging registers (R123): the same set in all ten slots, the stored parameters,
DIRTY cleared, and CheckCoefs. -/
def recompute (cfg : Params) (b : Fin 5) (s : State) : State :=
  let x := s.band b
  let c := bandCoefs cfg x.ftype s.sampleRate x.freq x.gainDb x.q
  (s.setBand b { x.setCoefs c with
      stFs := s.sampleRate, stFreq := x.freq, stGain := x.gainDb, stQ := x.q, dirty := false }).noteNonfinite c.degenerate

/-- `changed`: one of the four parameters differs from its stored value by IEEE equality (R123). -/
def parametersChanged (b : Fin 5) (s : State) : Bool :=
  let x := s.band b
  !feq s.sampleRate x.stFs || !feq x.freq x.stFreq || !feq x.gainDb x.stGain || !feq x.q x.stQ

/-- `Update(b)`: the lazy update (R123). -/
def lazyUpdate (cfg : Params) (b : Fin 5) (s : State) : State :=
  if parametersChanged b s || (s.band b).dirty then recompute cfg b s else s

/-- The depth INIT_BAND gives its band: the checked field in INTERLEAVED mode, 1 in BIQUAD mode, where the field is
ignored (R122). -/
def initDepth (m : Mode) (n : Nat) : Except Cause (BitVec 4) :=
  match m with
  | .biquad => .ok 1
  | .interleaved => checkDepth n

/-- INIT_BAND's effect for checked operands under a configuration (R122). -/
def runInitBand (cfg : Params) (b : Fin 5) (t : FilterType) (d : BitVec 4) (s : State) : State :=
  recompute cfg b (s.setBand b { (s.band b).clearHistory with ftype := t, depth := d, active := 0 })

/-- PROCESS_BAND's effect for a band (R124): one step pair on the active slot; ACTIVE does not move. -/
def runProcessBand (b : Fin 5) (s : State) : State :=
  let r := stepPair b (s.band b).active (s.inL, s.inR) s
  { r.2 with outL := r.1.1, outR := r.1.2 }

/-- RESET_HISTORY's effect: every history word of every slot of every band goes to +0.0 (R125). -/
def runResetHistory (s : State) : State :=
  { s with bands := forEach (fun _ x => x.clearHistory) s.bands }

/-- INIT_BAND (R122): refused as BAD_BAND, BAD_TYPE, or BAD_DEPTH in INTERLEAVED mode, in that order. -/
def execInitBand (band ftype depth : Nat) (s : State) : Host.Outcome State Fault Refusal :=
  .next (s.finish (.initBand band ftype depth) (do
    let b ← checkBand band
    let t ← checkType ftype
    let d ← initDepth s.mode depth
    .ok (runInitBand Config.build b t d s)))

/-- UPDATE_BAND (R123): refused as BAD_BAND. -/
def execUpdateBand (band : Nat) (s : State) : Host.Outcome State Fault Refusal :=
  .next (s.finish (.updateBand band) (do
    let b ← checkBand band
    .ok (lazyUpdate Config.build b s)))

/-- PROCESS_BAND (R124): refused as BAD_BAND. -/
def execProcessBand (band : Nat) (s : State) : Host.Outcome State Fault Refusal :=
  .next (s.finish (.processBand band) (do
    let b ← checkBand band
    .ok (runProcessBand b s)))

/-- RESET_HISTORY (R125). -/
def execResetHistory (s : State) : Host.Outcome State Fault Refusal :=
  .next (runResetHistory s)

end Sys2Proof.Machine
end

