-- ==== Sys2Proof/Machine/Chain.lean ====
section
/-! DEFINITION. The band chain and the mix stage (spec 43_band_chain.md): the commands TICK and NOP. -/

namespace Sys2Proof.Machine

/-- `LinGain(g)` (R161). -/
def linGain (cfg : Params) (g : F32) : F32 := cfg.exp10 (fdiv g f32Twenty)

/-- `IncIdx(b)` (R162). -/
def incIdx (b : Fin 5) (s : State) : State := s.setBand b (s.band b).incIndex

/-- The rotation before pass `p`: in INTERLEAVED mode under BETWEEN, before every pass but the first (R163). -/
def rotateBefore (cfg : Params) (m : Mode) (b : Fin 5) (p : Nat) (s : State) : State :=
  if m = .interleaved ∧ cfg.incPolicy = .between ∧ 0 < p then incIdx b s else s

/-- The rotation after a pass: in INTERLEAVED mode under AFTER_EACH (R163). -/
def rotateAfter (cfg : Params) (m : Mode) (b : Fin 5) (s : State) : State :=
  if m = .interleaved ∧ cfg.incPolicy = .afterEach then incIdx b s else s

/-- The step pair of a band on its active slot. -/
def stepActive (b : Fin 5) (v : F32 × F32) (s : State) : (F32 × F32) × State :=
  stepPair b (s.band b).active v s

/-- Pass `p` of band `b`, with its rotations (R162, R163). -/
def onePass (cfg : Params) (m : Mode) (b : Fin 5) (acc : (F32 × F32) × State) (p : Nat) : (F32 × F32) × State :=
  let r := stepActive b acc.1 (rotateBefore cfg m b p acc.2)
  (r.1, rotateAfter cfg m b r.2)

/-- Passes `0` to `k` of band `b`: each filters the previous pass's output (R163). -/
def bandPasses (cfg : Params) (m : Mode) (k : Nat) (acc : (F32 × F32) × State) (b : Fin 5) : (F32 × F32) × State :=
  (List.range (k + 1)).foldl (onePass cfg m b) acc

/-- The cascade: bands 0 to 4 in order, each fed by the one before (R160, R162 step 3). -/
def cascade (cfg : Params) (m : Mode) (k : Nat) (v : F32 × F32) (s : State) : (F32 × F32) × State :=
  bandOrder.foldl (bandPasses cfg m k) (v, s)

/-- The lazy update of every band in order (R162 step 2). -/
def updateAll (cfg : Params) (s : State) : State :=
  bandOrder.foldl (fun t b => lazyUpdate cfg b t) s

/-- The dry signal: the gained input or the raw input, as DRY_TAP says (R164). -/
def dryTap (cfg : Params) (raw gained : F32) : F32 :=
  match cfg.dryTap with
  | .postInputGain => gained
  | .preInputGain => raw

/-- The crossfade `((1.0 - w) × dry) + (w × wet)` (R165). -/
def crossfade (w dry wet : F32) : F32 := fadd (fmul (fsub f32One w) dry) (fmul w wet)

/-- TICK's effect under a configuration (R162): input gain and pre tap, lazy update of every band, the cascade, the
crossfade, the output gain and the post tap. The global staging registers are read as they stood at the start
(20_memory.md R60); no part of the command writes them. -/
def runTick (cfg : Params) (s : State) : State :=
  let gin := linGain cfg s.inGainDb
  let gout := linGain cfg s.outGainDb
  let pl := fmul s.inL gin
  let pr := fmul s.inR gin
  let r := cascade cfg s.mode s.osf.toNat (pl, pr) (updateAll cfg { s with preL := pl, preR := pr })
  let ol := fmul (crossfade s.wetMix (dryTap cfg s.inL pl) r.1.1) gout
  let or := fmul (crossfade s.wetMix (dryTap cfg s.inR pr) r.1.2) gout
  { r.2 with outL := ol, outR := or }.noteNonfinite (!isFinite ol || !isFinite or)

/-- TICK (R162). -/
def execTick (s : State) : Host.Outcome State Fault Refusal :=
  .next (runTick Config.build s)

/-- NOP: no state changes (R167). -/
def execNop (s : State) : Host.Outcome State Fault Refusal :=
  .next s

end Sys2Proof.Machine
end

