-- ==== Sys2Proof/Machine/Dispatch.lean ====
section
/-! DEFINITION. exec: one arm per command (spec 30_encoding.md R72). -/

namespace Sys2Proof.Machine

def exec (i : Instr) (s : State) : Host.Outcome State Fault Refusal :=
  match i with
  | .nop => Sys2Proof.Machine.execNop s
  | .initBand b t n => Sys2Proof.Machine.execInitBand b t n s
  | .updateBand b => Sys2Proof.Machine.execUpdateBand b s
  | .setType b t => Sys2Proof.Machine.execSetType b t s
  | .setInterleave b n => Sys2Proof.Machine.execSetInterleave b n s
  | .processBand b => Sys2Proof.Machine.execProcessBand b s
  | .incrementIndex b => Sys2Proof.Machine.execIncrementIndex b s
  | .resetHistory => Sys2Proof.Machine.execResetHistory s
  | .tick => Sys2Proof.Machine.execTick s
  | .map => Sys2Proof.Machine.execMap s
  | .solve t => Sys2Proof.Machine.execSolve t s

end Sys2Proof.Machine
end

