-- ==== Sys2Proof/Machine/Bus.lean ====
section
/-! DEFINITION. The register bus (spec 20_memory.md R52 to R59): one transaction of the host, with the whole command
where it is a write to CMD, and reset (70_reset_and_hazards.md R200). -/

namespace Sys2Proof.Machine

/-- A write with all four byte strobes (R52). -/
def fullStrobe : BitVec 4 := 0b1111

/-- The byte address of CMD (10_state.md R25). -/
def cmdAddr : Addr := 0x00C

/-- `info` of a BUS_ERR: the byte address, zero-extended (R57). -/
def busInfo (a : Addr) : Word := a.setWidth 32

/-- A read (R55): the register's value, no other effect; a refused read answers 0 (R57). -/
def busRead (a : Addr) (s : State) : State :=
  match regAt a with
  | some r => { s with prdata := some (s.readReg r), pslverr := false }
  | none => { s with prdata := some 0 }.refuse .busErr (busInfo a)

/-- A word written to CMD: decoded and executed, or refused as BAD_CMD (30_encoding.md R70, R74). -/
def runCommandWord (w : Word) (s : State) : Host.Outcome State Fault Refusal :=
  match decode w with
  | .ok i => exec i s
  | .error _ => .next (s.refuse .badCmd w)

/-- A write (R56, R57): refused without full strobes or at an unmapped or misaligned address, before anything is
decoded (60_exceptions.md R184); a write to CMD runs the command to completion (R59). -/
def busWrite (a : Addr) (v : Word) (strb : BitVec 4) (s : State) : Host.Outcome State Fault Refusal :=
  match regAt a with
  | none => .next ({ s with prdata := none }.refuse .busErr (busInfo a))
  | some r =>
    if strb ≠ fullStrobe then .next ({ s with prdata := none }.refuse .busErr (busInfo a))
    else if r = .global .cmd then runCommandWord v { s with prdata := none, pslverr := false }
    else .next ({ s with prdata := none, pslverr := false }.writeReg r v)

/-- `rst_n` low at a clock edge: every register takes its reset value (70_reset_and_hazards.md R200); the host's inputs
still to come are not the block's (assumption 11). -/
def hardReset (s : State) : State := { State.reset with pending := s.pending }

/-- One input of the host. -/
def accept (t : HostInput) (s : State) : Host.Outcome State Fault Refusal :=
  match t with
  | .read a => .next (busRead a s)
  | .write a v strb => busWrite a v strb s
  | .reset => .next (hardReset s)

/-- The next input of the host; with none, the block is idle and runs nothing on its own (70_reset_and_hazards.md R201,
assumption 4). -/
def acceptNext (s : State) : Host.Outcome State Fault Refusal :=
  match s.pending with
  | [] => .next s
  | t :: rest => accept t { s with pending := rest }

/-- The host's next input is a write of the command word `w` to CMD (assumption 3). -/
def State.offerCommand (s : State) (w : Word) : State :=
  { s with pending := .write cmdAddr w fullStrobe :: s.pending }

end Sys2Proof.Machine
end

