-- ==== Sys2Proof/Safety.lean ====
section
/-! DEFINITION. What counts as a good state and a safe step, in the terms the statements use (spec 10_state.md R41, R42). -/

namespace Sys2Proof.Machine

/-- A band within its ranges: DEPTH is 1 to 10, ACTIVE below it, the code of TYPE at most 6 (R41). -/
def Band.InRange (x : Band) : Prop :=
  1 ≤ x.depth.toNat ∧ x.depth.toNat ≤ 10 ∧ x.active.val < x.depth.toNat ∧ typeCode x.ftype ≤ 6

/-- A band of BIQUAD mode: DEPTH 1, ACTIVE 0 (R41). -/
def Band.Single (x : Band) : Prop := x.depth = 1 ∧ x.active = 0

/-- All ten slots of the band hold the same coefficients (R42). -/
def Band.Uniform (x : Band) : Prop := ∀ j k : Fin 10, (x.slot j).coefs = (x.slot k).coefs

/-- The invariants of R41 and R42 together: the ranges, the BIQUAD restriction, OSF at most 2, and one coefficient set
a band. -/
structure State.Inv (s : State) : Prop where
  ranges  : ∀ b, (s.band b).InRange
  single  : s.mode = .biquad → ∀ b, (s.band b).Single
  osf     : s.osf.toNat ≤ 2
  uniform : ∀ b, (s.band b).Uniform

/-- `n` times the same command, each in the state the one before left. -/
def repeatCommand (i : Instr) : Nat → State → Host.Outcome State Fault Refusal
  | 0, s => .next s
  | n + 1, s =>
    match exec i s with
    | .next t => repeatCommand i n t
    | .fault r => .fault r
    | .refused r => .refused r

/-- One lane of one slot fed a list of samples: its outputs, in order, and its last history (41_biquad_core.md R120). -/
def laneRun (c : Coefs) : Lane → List F32 → List F32 × Lane
  | h, [] => ([], h)
  | h, x :: xs =>
    ((df1Output c h x) :: (laneRun c (h.shift x (df1Output c h x)) xs).1,
      (laneRun c (h.shift x (df1Output c h x)) xs).2)

/-- All six coefficients are finite and a0 is not a zero: the complement of what CheckCoefs reports (R102). -/
def Coefs.Sound (c : Coefs) : Prop := c.degenerate = false

/-- A history of zeros of either sign (41_biquad_core.md R126). -/
def Lane.Silent (h : Lane) : Prop :=
  isZero h.x1 = true ∧ isZero h.x2 = true ∧ isZero h.y1 = true ∧ isZero h.y2 = true

/-- Read/write registers whose data is stored as written (20_memory.md R56): all that 10_state.md marks RW, but CTRL. -/
def Reg.plainRW : Reg → Bool
  | .global .sampleRate => true
  | .global .inGainDb => true
  | .global .outGainDb => true
  | .global .wetMix => true
  | .global .inL => true
  | .global .inR => true
  | .global .solveFs => true
  | .global .solveFreq => true
  | .global .solveQ => true
  | .global .solveGain => true
  | .global .solveOmega => true
  | .global .solveAlpha => true
  | .band _ .freq => true
  | .band _ .gainDb => true
  | .band _ .q => true
  | _ => false

/-- Read-only registers (20_memory.md R56): all that 10_state.md marks RO. STATUS (W1C), CTRL and CMD are neither. -/
def Reg.readOnly : Reg → Bool
  | .global .ctrl => false
  | .global .status => false
  | .global .cmd => false
  | r => !r.plainRW

/-- The magnitude, in units of 2^-149, of a finite magnitude pattern (exponent and fraction), from 00_scope.md R10. -/
def patternMag (p : Nat) : Nat :=
  if p / 2 ^ 23 = 0 then p else (2 ^ 23 + p % 2 ^ 23) * 2 ^ (p / 2 ^ 23 - 1)

/-- The magnitude of a finite pattern, in units of 2^-149. -/
def magOf (a : F32) : Nat := patternMag (a.extractLsb' 0 31).toNat

/-- The number of a finite pattern, in units of 2^-149. -/
def numOf (a : F32) : Int := if a.msb then -(magOf a : Int) else magOf a

/-- A sign bit before the magnitude of `n / d` units of 2^-149, rounded (00_scope.md R10, R12). -/
def signedRound (neg : Bool) (n d : Nat) : F32 := BitVec.ofBool neg ++ BitVec.ofNat 31 (roundMag n d)

/-- `r` is the finite magnitude pattern nearest to the square root of `n`, in units of 2^-149; where another is as near,
the last bit of `r` is 0. That `r` is nearer to the root than `p` is comparing the root with the middle of the two. -/
def NearestRoot (n r : Nat) : Prop :=
  r < 0x7F800000 ∧ ∀ p, p < 0x7F800000 →
    (patternMag p < patternMag r → (patternMag p + patternMag r) ^ 2 ≤ 4 * n) ∧
    (patternMag r < patternMag p → 4 * n ≤ (patternMag p + patternMag r) ^ 2) ∧
    (p ≠ r → (patternMag p + patternMag r) ^ 2 = 4 * n → r % 2 = 0)

/-- How far `m` units of 2^-149 are from `n / d` units, times `d`. -/
def distTimes (d n m : Nat) : Nat := ((m * d : Int) - n).natAbs

/-- The step answered with a next state: it neither faulted nor refused. -/
def Continues (o : Host.Outcome State Fault Refusal) : Prop := ∃ t, o = .next t

end Sys2Proof.Machine
end

