-- ==== Sys2Proof/Certificates/Slice0/Obligations.lean ====
section
/-! DEFINITION. The statements about the machine, from the numbered rules of spec/. A statement about a command that
computes is about `exec`, whose configuration `Config.build` has no body, so it holds for every configuration; a
statement that needs a property of the configuration takes the configuration as an argument and the property as a
premise. -/

open Sys2Proof Sys2Proof.Machine

/-! ## Encoding -/

/-- R70 to R74: decoding the word of a well-formed command gives the command back, with every operand at every value
its field admits. -/
def Obligations.DecodeOfEncode : Prop :=
  ∀ i : Instr, i.WellFormed → decode (encode i) = .ok i

/-- R74: a word that decodes is the word of its command, so no bit of it is dropped. -/
def Obligations.EncodeOfDecode : Prop :=
  ∀ (w : Word) (i : Instr), decode w = .ok i → i.WellFormed ∧ encode i = w

/-- R79: every word fits exactly one row and decodes, or fits none and its write to CMD is refused as BAD_CMD. -/
def Obligations.WordFitsOneRowOrIsBadCmd : Prop :=
  ∀ w : Word,
    ((∃ r ∈ opRows, r.fits w = true ∧ (∀ q ∈ opRows, q.fits w = true → q = r) ∧ decode w = .ok (r.build w)) ∨
      ((∀ r ∈ opRows, r.fits w = false) ∧
        ∀ (s : State) (rest : List HostInput), s.pending = .write 0x00C w 0b1111 :: rest →
          ∃ t, step s = .next t ∧ t = { s with pending := rest, prdata := t.prdata, pslverr := true,
                                               sticky := s.sticky ||| 0x01, lastErr := 1, errInfo := w }))

/-- R73: a reserved opcode is refused as BAD_CMD, with no effect but the record. -/
def Obligations.ReservedOpcodeIsBadCmd : Prop :=
  ∀ (s : State) (w : Word) (rest : List HostInput), 0x0B ≤ (w.extractLsb' 24 8).toNat →
    s.pending = .write 0x00C w 0b1111 :: rest →
    ∃ t, step s = .next t ∧ t = { s with pending := rest, prdata := t.prdata, pslverr := true,
                                         sticky := s.sticky ||| 0x01, lastErr := 1, errInfo := w }

/-- R72, R81: words written out from the encoding table decode to the commands they stand for. -/
def Obligations.CommandWordsDecode : Prop :=
  decode 0x00000000 = .ok .nop ∧
  decode 0x01243000 = .ok (.initBand 2 4 3) ∧
  decode 0x02400000 = .ok (.updateBand 4) ∧
  decode 0x03160000 = .ok (.setType 1 6) ∧
  decode 0x0400A000 = .ok (.setInterleave 0 10) ∧
  decode 0x05500000 = .ok (.processBand 5) ∧
  decode 0x06300000 = .ok (.incrementIndex 3) ∧
  decode 0x07000000 = .ok .resetHistory ∧
  decode 0x08000000 = .ok .tick ∧
  decode 0x09000000 = .ok .map ∧
  decode 0x0A060000 = .ok (.solve 6)

/-! ## The register space and the bus -/

/-- R22 to R38, R43, R66, R67: every register stands at the address the spec gives it, the address decoder finds it
there and nothing anywhere else, and 767 of the 8192 addresses are mapped. -/
def Obligations.RegisterAddressesDecode : Prop :=
  (∀ r : GlobalReg, (Reg.global r).addr =
    match r with
    | .ctrl => 0x000
    | .status => 0x004
    | .errInfo => 0x008
    | .cmd => 0x00C
    | .sampleRate => 0x010
    | .inGainDb => 0x014
    | .outGainDb => 0x018
    | .wetMix => 0x01C
    | .inL => 0x020
    | .inR => 0x024
    | .outL => 0x028
    | .outR => 0x02C
    | .preL => 0x030
    | .preR => 0x034
    | .solveFs => 0x040
    | .solveFreq => 0x044
    | .solveQ => 0x048
    | .solveGain => 0x04C
    | .solveOmega => 0x050
    | .solveAlpha => 0x054
    | .solveAmp => 0x058
    | .solveB0 => 0x060
    | .solveB1 => 0x064
    | .solveB2 => 0x068
    | .solveA0 => 0x06C
    | .solveA1 => 0x070
    | .solveA2 => 0x074) ∧
  (∀ (b : Fin 5) (r : BandReg), (Reg.band b r).addr.toNat = 0x400 * (b.val + 1) +
    match r with
    | .freq => 0x000
    | .gainDb => 0x004
    | .q => 0x008
    | .bandStat => 0x00C
    | .stFs => 0x010
    | .stFreq => 0x014
    | .stGain => 0x018
    | .stQ => 0x01C) ∧
  (∀ (b : Fin 5) (k : Fin 10) (r : SlotReg),
    (Reg.slot b k r).addr.toNat = 0x400 * (b.val + 1) + 0x100 + 0x40 * k.val +
    match r with
    | .b0 => 0x00
    | .b1 => 0x04
    | .b2 => 0x08
    | .a0 => 0x0C
    | .a1 => 0x10
    | .a2 => 0x14
    | .xl1 => 0x18
    | .xl2 => 0x1C
    | .yl1 => 0x20
    | .yl2 => 0x24
    | .xr1 => 0x28
    | .xr2 => 0x2C
    | .yr1 => 0x30
    | .yr2 => 0x34) ∧
  (∀ r : Reg, regAt r.addr = some r) ∧ (∀ (a : Addr) (r : Reg), regAt a = some r → r.addr = a) ∧
  ((List.range 8192).filter (fun n => (regAt (BitVec.ofNat 13 n)).isSome)).length = 767

/-- R55: a read answers the register's value and changes nothing else, a refused read answers 0 with `pslverr`. The
words read have the fields of R22, R23 and R36 at their places, reserved fields and CMD read as 0, and every other
register reads as the state element of its name. -/
def Obligations.ReadAnswersTheRegister : Prop :=
  (∀ (s : State) (a : Addr) (r : Reg) (rest : List HostInput), s.pending = .read a :: rest → regAt a = some r →
    step s = .next { s with pending := rest, prdata := some (s.readReg r), pslverr := false }) ∧
  (∀ (s : State) (a : Addr) (rest : List HostInput), s.pending = .read a :: rest → regAt a = none →
    ∃ t, step s = .next t ∧ t.prdata = some 0 ∧ t.pslverr = true) ∧
  (∀ s : State,
    (s.readReg (.global .ctrl)).getLsbD 0 = (s.mode == .interleaved) ∧
    (s.readReg (.global .ctrl)).extractLsb' 1 2 = s.osf ∧
    (s.readReg (.global .ctrl)).extractLsb' 3 29 = 0 ∧
    (s.readReg (.global .status)).extractLsb' 0 8 = s.sticky ∧
    (s.readReg (.global .status)).extractLsb' 8 4 = s.lastErr ∧
    (s.readReg (.global .status)).extractLsb' 12 20 = 0) ∧
  (∀ (s : State) (b : Fin 5),
    ((s.readReg (.band b .bandStat)).extractLsb' 0 3).toNat = typeCode (s.band b).ftype ∧
    (s.readReg (.band b .bandStat)).extractLsb' 3 1 = 0 ∧
    (s.readReg (.band b .bandStat)).extractLsb' 4 4 = (s.band b).depth ∧
    ((s.readReg (.band b .bandStat)).extractLsb' 8 4).toNat = (s.band b).active.val ∧
    (s.readReg (.band b .bandStat)).getLsbD 12 = (s.band b).dirty ∧
    (s.readReg (.band b .bandStat)).extractLsb' 13 19 = 0) ∧
  (∀ s : State,
    [GlobalReg.errInfo, .cmd, .sampleRate, .inGainDb, .outGainDb, .wetMix, .inL, .inR, .outL, .outR, .preL, .preR].map
      (fun r => s.readReg (.global r)) =
      [s.errInfo, 0, s.sampleRate, s.inGainDb, s.outGainDb, s.wetMix, s.inL, s.inR, s.outL, s.outR, s.preL, s.preR] ∧
    [GlobalReg.solveFs, .solveFreq, .solveQ, .solveGain, .solveOmega, .solveAlpha, .solveAmp, .solveB0, .solveB1, .solveB2,
      .solveA0, .solveA1, .solveA2].map (fun r => s.readReg (.global r)) =
      [s.solver.fs, s.solver.freq, s.solver.q, s.solver.gain, s.solver.omega, s.solver.alpha, s.solver.amp,
       s.solver.coefs.b0, s.solver.coefs.b1, s.solver.coefs.b2, s.solver.coefs.a0, s.solver.coefs.a1, s.solver.coefs.a2]) ∧
  ∀ (s : State) (b : Fin 5) (k : Fin 10),
    [BandReg.freq, .gainDb, .q, .stFs, .stFreq, .stGain, .stQ].map (fun r => s.readReg (.band b r)) =
      [(s.band b).freq, (s.band b).gainDb, (s.band b).q, (s.band b).stFs, (s.band b).stFreq, (s.band b).stGain,
       (s.band b).stQ] ∧
    (let y := (s.band b).slot k
     [SlotReg.b0, .b1, .b2, .a0, .a1, .a2, .xl1, .xl2, .yl1, .yl2, .xr1, .xr2, .yr1, .yr2].map
       (fun r => s.readReg (.slot b k r)) =
       [y.coefs.b0, y.coefs.b1, y.coefs.b2, y.coefs.a0, y.coefs.a1, y.coefs.a2, y.left.x1, y.left.x2, y.left.y1, y.left.y2,
        y.right.x1, y.right.x2, y.right.y1, y.right.y2])

/-- R57: an unmapped or misaligned access, and a write without all four strobes, is refused as BUS_ERR: the record,
`pslverr`, a refused read's data 0, and no other change. -/
def Obligations.RefusedAccessRecordsBusErr : Prop :=
  (∀ (s : State) (a : Addr) (rest : List HostInput), s.pending = .read a :: rest →
    ((¬ ∃ r : Reg, r.addr = a) ∨ a.toNat % 4 ≠ 0) →
    step s = .next { s with pending := rest, prdata := some 0, pslverr := true,
                            sticky := s.sticky ||| 0x20, lastErr := 6, errInfo := a.setWidth 32 }) ∧
  ∀ (s : State) (a : Addr) (v : Word) (strb : BitVec 4) (rest : List HostInput), s.pending = .write a v strb :: rest →
    ((¬ ∃ r : Reg, r.addr = a) ∨ a.toNat % 4 ≠ 0 ∨ strb ≠ 0b1111) →
    ∃ t, step s = .next t ∧ t = { s with pending := rest, prdata := t.prdata, pslverr := true,
                                         sticky := s.sticky ||| 0x20, lastErr := 6, errInfo := a.setWidth 32 }

/-- R56: a write to a read/write register other than CTRL stores the data unchecked; every other register keeps its
value. -/
def Obligations.PlainWriteStoresTheData : Prop :=
  ∀ (s : State) (r : Reg) (v : Word) (rest : List HostInput), r.plainRW = true →
    s.pending = .write r.addr v 0b1111 :: rest →
    ∃ t, step s = .next t ∧ t.readReg r = v ∧ (∀ q : Reg, q ≠ r → t.readReg q = s.readReg q) ∧
      t.pending = rest ∧ t.pslverr = false

/-- R56: a write to a read-only register has no effect, and no error is recorded. That no read answer stands on the bus
after a write is the model's choice (assumption 2). -/
def Obligations.ReadOnlyWriteIsIgnored : Prop :=
  ∀ (s : State) (r : Reg) (v : Word) (rest : List HostInput), r.readOnly = true →
    s.pending = .write r.addr v 0b1111 :: rest →
    step s = .next { s with pending := rest, prdata := none, pslverr := false }

/-- R23, R56, R189: writing ones to STATUS [7:0] clears those bits and nothing else; LAST_ERR and ERRINFO stay. That no
read answer stands on the bus after a write is the model's choice (assumption 2). -/
def Obligations.StatusWriteClearsOnes : Prop :=
  ∀ (s : State) (v : Word) (rest : List HostInput), s.pending = .write 0x004 v 0b1111 :: rest →
    ∃ t, step s = .next t ∧
      (∀ k, k < 8 → t.sticky.getLsbD k = (s.sticky.getLsbD k && !v.getLsbD k)) ∧
      t = { s with pending := rest, prdata := none, pslverr := false, sticky := t.sticky }

/-- R22, R145, R181: a CTRL write whose OSF field is 3 is refused as a whole, as BAD_VALUE with the data in ERRINFO. Any
other takes OSF and MODE; where MODE changes, every band goes to DEPTH 1 and ACTIVE 0 with all history zero, its type,
coefficients, stored parameters and DIRTY kept; where it does not, no band changes. Nothing else changes. -/
def Obligations.CtrlWriteActsByItsFields : Prop :=
  (∀ (s : State) (v : Word) (rest : List HostInput), v.extractLsb' 1 2 = 3 → s.pending = .write 0x000 v 0b1111 :: rest →
    ∃ t, step s = .next t ∧ t = { s with pending := rest, prdata := t.prdata, pslverr := true,
                                         sticky := s.sticky ||| 0x40, lastErr := 7, errInfo := v }) ∧
  ∀ (s : State) (v : Word) (rest : List HostInput), v.extractLsb' 1 2 ≠ 3 → s.pending = .write 0x000 v 0b1111 :: rest →
    ∃ t, step s = .next t ∧
      t.mode = (if v.getLsbD 0 then .interleaved else .biquad) ∧
      t.osf = v.extractLsb' 1 2 ∧
      (t.mode ≠ s.mode → ∀ b,
        (∀ k, (t.band b).slot k = { (s.band b).slot k with left := ⟨0, 0, 0, 0⟩, right := ⟨0, 0, 0, 0⟩ }) ∧
        t.band b = { s.band b with depth := 1, active := 0, slots := (t.band b).slots }) ∧
      (t.mode = s.mode → t.bands = s.bands) ∧
      t = { s with pending := rest, prdata := t.prdata, pslverr := false, mode := t.mode, osf := t.osf, bands := t.bands }

/-! ## Reset, the step, the invariants -/

/-- R46: the value of every register after reset. -/
def Obligations.ResetRegisterValues : Prop :=
  ∀ r : Reg, State.reset.readReg r =
    match r with
    | .band _ .bandStat => 0x00001010
    | .slot _ _ .b0 => 0x3F800000
    | .slot _ _ .a0 => 0x3F800000
    | _ => 0x00000000

/-- R200: a clock edge with `rst_n` low takes every register to its reset value. The host's inputs still to come stay,
and no answer stands on the bus: both are the model's choice (assumptions 2 and 11). -/
def Obligations.ResetStepResetsEveryRegister : Prop :=
  ∀ (s : State) (rest : List HostInput), s.pending = .reset :: rest → step s = .next { State.reset with pending := rest }

/-- R201: with no input of the host the block is idle. That the model's step then leaves the state as it is, is the
model's choice (assumption 4). -/
def Obligations.IdleStepChangesNothing : Prop :=
  ∀ s : State, s.pending = [] → step s = .next s

/-- R59, R70: a write of a word that decodes to a well-formed command is the command's execution, with the input taken
from the host's list and `pslverr` clear unless the command is refused. That no read answer stands on the bus is the
model's choice (assumption 2). -/
def Obligations.StepRunsTheDecodedCommand : Prop :=
  ∀ (s : State) (w : Word) (i : Instr) (rest : List HostInput), s.pending = .write 0x00C w 0b1111 :: rest →
    decode w = .ok i → i.WellFormed →
    step s = exec i { s with pending := rest, prdata := none, pslverr := false }

/-- R180, R188: no transaction stops the block, in any state. -/
def Obligations.StepAlwaysContinues : Prop :=
  ∀ s : State, Continues (step s)

/-- R41, R42: every step keeps the invariants: DEPTH 1 to 10, ACTIVE below DEPTH, TYPE at most 6, DEPTH 1 and ACTIVE 0
in BIQUAD mode, OSF at most 2, and one coefficient set a band. -/
def Obligations.StepKeepsTheInvariants : Prop :=
  ∀ s t : State, s.Inv → step s = .next t → t.Inv

/-- R41, R42: the reset state meets the invariants. -/
def Obligations.ResetMeetsTheInvariants : Prop :=
  State.reset.Inv

/-! ## Refusals -/

/-- R75, R181, R184: BAND above 4 is refused as BAD_BAND by every command that uses BAND, whatever its other operands
and the mode are. -/
def Obligations.BandAboveFourIsBadBand : Prop :=
  ∀ (s : State) (b t n : Nat), 4 < b →
    ∀ i ∈ [Instr.initBand b t n, .updateBand b, .setType b t, .setInterleave b n, .processBand b, .incrementIndex b],
      exec i s = .next { s with sticky := s.sticky ||| 0x02, lastErr := 2, errInfo := encode i, pslverr := true }

/-- R140, R181, R184: in BIQUAD mode the three commands of the interleaved bank are refused as MODE_ERR on a valid
band, whatever their type or depth is. -/
def Obligations.BankCommandInBiquadIsModeErr : Prop :=
  ∀ (s : State) (b : Fin 5) (t n : Nat), s.mode = .biquad →
    ∀ i ∈ [Instr.setType b t, .setInterleave b n, .incrementIndex b],
      exec i s = .next { s with sticky := s.sticky ||| 0x04, lastErr := 3, errInfo := encode i, pslverr := true }

/-- R75, R181, R184: TYPE above 6 is refused as BAD_TYPE where no earlier cause holds. -/
def Obligations.TypeAboveSixIsBadType : Prop :=
  ∀ (s : State) (b : Fin 5) (t n : Nat), 6 < t →
    (∀ i ∈ [Instr.initBand b t n, .solve t],
      exec i s = .next { s with sticky := s.sticky ||| 0x08, lastErr := 4, errInfo := encode i, pslverr := true }) ∧
    (s.mode = .interleaved →
      exec (.setType b t) s =
        .next { s with sticky := s.sticky ||| 0x08, lastErr := 4, errInfo := encode (.setType b t), pslverr := true })

/-- R75, R181, R184: in INTERLEAVED mode DEPTH 0 or above 10 is refused as BAD_DEPTH where no earlier cause holds. -/
def Obligations.DepthOutOfRangeIsBadDepth : Prop :=
  ∀ (s : State) (b : Fin 5) (ft : FilterType) (n : Nat), s.mode = .interleaved → (n = 0 ∨ 10 < n) →
    ∀ i ∈ [Instr.setInterleave b n, .initBand b (typeCode ft) n],
      exec i s = .next { s with sticky := s.sticky ||| 0x10, lastErr := 5, errInfo := encode i, pslverr := true }

/-- R183: a command that answers `pslverr` changes no register but STATUS and ERRINFO; its record is one cause's sticky
bit and code, with the command word, and nothing else of the state changes. -/
def Obligations.RefusedCommandChangesOnlyTheRecord : Prop :=
  ∀ (i : Instr) (s t : State), s.pslverr = false → exec i s = .next t → t.pslverr = true →
    (∀ r : Reg, r ≠ .global .status → r ≠ .global .errInfo → t.readReg r = s.readReg r) ∧
    ∃ c : Cause, t = { s with sticky := s.sticky ||| c.bit, lastErr := c.code, errInfo := encode i, pslverr := true }

/-- R23, R44: a command clears no sticky bit, and changes LAST_ERR and ERRINFO only as a refusal. -/
def Obligations.CommandsClearNoStickyBit : Prop :=
  ∀ (i : Instr) (s t : State), exec i s = .next t →
    s.sticky &&& t.sticky = s.sticky ∧
    (s.pslverr = false → t.pslverr = false → t.lastErr = s.lastErr ∧ t.errInfo = s.errInfo)

/-- R181, R185: LAST_ERR never takes a reserved code, and ERRINFO is 0 while no refusal is recorded: every step keeps
both. -/
def Obligations.StepKeepsTheRefusalRecord : Prop :=
  ∀ s t : State, s.lastErr.toNat ≤ 7 → (s.lastErr = 0 → s.errInfo = 0) → step s = .next t →
    t.lastErr.toNat ≤ 7 ∧ (t.lastErr = 0 → t.errInfo = 0)

/-- R22, R26 to R29, R32, R35: no command writes CTRL, a global staging register, a solver input other than omega and
alpha, or a band's staging registers; nor does it take an input from the host. -/
def Obligations.CommandsNeverWriteStaging : Prop :=
  ∀ (i : Instr) (s t : State), exec i s = .next t →
    (∀ r : GlobalReg, r ∈ [GlobalReg.ctrl, .sampleRate, .inGainDb, .outGainDb, .wetMix, .inL, .inR,
        .solveFs, .solveFreq, .solveQ, .solveGain] → t.readReg (.global r) = s.readReg (.global r)) ∧
    (∀ b : Fin 5, ∀ r ∈ [BandReg.freq, .gainDb, .q], t.readReg (.band b r) = s.readReg (.band b r)) ∧
    t.pending = s.pending

/-- R30, R31, R32, R33, R37, R39: which commands write the output pair, the pre taps, omega and alpha, the solver's
results, the stored parameters and the coefficients; no other command does. -/
def Obligations.ResultsWrittenByTheirCommandsOnly : Prop :=
  ∀ (i : Instr) (s t : State), exec i s = .next t →
    ((∀ b, i ≠ .processBand b) → i ≠ .tick → t.outL = s.outL ∧ t.outR = s.outR) ∧
    (i ≠ .tick → t.preL = s.preL ∧ t.preR = s.preR) ∧
    (i ≠ .map → t.solver.omega = s.solver.omega ∧ t.solver.alpha = s.solver.alpha) ∧
    ((∀ ft, i ≠ .solve ft) → t.solver.amp = s.solver.amp ∧ t.solver.coefs = s.solver.coefs) ∧
    ((∀ b ft n, i ≠ .initBand b ft n) → (∀ b, i ≠ .updateBand b) → i ≠ .tick → ∀ b : Fin 5,
      (∀ k, ((t.band b).slot k).coefs = ((s.band b).slot k).coefs) ∧
      ∀ r ∈ [BandReg.stFs, .stFreq, .stGain, .stQ], t.readReg (.band b r) = s.readReg (.band b r))

/-! ## The solver -/

/-- R167: NOP completes and changes nothing; a word with OPC 0 and any other bit set is refused as BAD_CMD. -/
def Obligations.NopChangesNothing : Prop :=
  (∀ s : State, exec .nop s = .next s) ∧ decode 0x00000000 = .ok .nop ∧
  ∀ (s : State) (w : Word) (rest : List HostInput), w.extractLsb' 24 8 = 0 → w ≠ 0 →
    s.pending = .write 0x00C w 0b1111 :: rest →
    ∃ t, step s = .next t ∧ t = { s with pending := rest, prdata := t.prdata, pslverr := true,
                                         sticky := s.sticky ||| 0x01, lastErr := 1, errInfo := w }

/-- R91, R92, R104: MAP completes in every state: omega is `(TWO_PI × f) ÷ fs`, alpha is `sin32(omega) ÷ (2.0 × Q)`, and
nothing else changes. -/
def Obligations.MapWritesOmegaAndAlpha : Prop :=
  ∀ s : State, ∃ t, exec .map s = .next t ∧
    t.solver.omega = fdiv (fmul 0x40C90FDB s.solver.freq) s.solver.fs ∧
    t.solver.alpha = fdiv (Config.build.sin32 t.solver.omega) (fmul 0x40000000 s.solver.q) ∧
    t = { s with solver := { s.solver with omega := t.solver.omega, alpha := t.solver.alpha } }

/-- R93, R94, R102, R105: SOLVE completes for every filter type in every state: the amplitude and the set of the type's
formula row are stored, NONFINITE is set exactly if a value of the set is not finite or a0 is a zero, and nothing else
changes. -/
def Obligations.SolveStoresAmplitudeAndSet : Prop :=
  ∀ (s : State) (ft : FilterType), ∃ t, exec (.solve (typeCode ft)) s = .next t ∧
    t.solver.amp = ampOf Config.build s.solver.gain ∧
    t.solver.coefs = formulaRow Config.build ft (Config.build.cos32 s.solver.omega) (Config.build.sin32 s.solver.omega)
      s.solver.alpha t.solver.amp ∧
    t.sticky = (if (∀ v ∈ [t.solver.coefs.b0, t.solver.coefs.b1, t.solver.coefs.b2,
        t.solver.coefs.a0, t.solver.coefs.a1, t.solver.coefs.a2], isFinite v = true) ∧ isZero t.solver.coefs.a0 = false
      then s.sticky else s.sticky ||| 0x80) ∧
    t = { s with sticky := t.sticky, solver := { s.solver with amp := t.solver.amp, coefs := t.solver.coefs } }

/-- R95 to R101: the seven formula rows, each the tree its rule writes, and the amplitude laws of R93. -/
def Obligations.FormulaRowsAreTheSpecTrees : Prop :=
  ∀ (cfg : Params) (c s al A g : F32),
    ampOf cfg g = (if cfg.ampLaw = .cookbook then cfg.exp10 (fdiv g 0x42200000) else fsqrt (cfg.exp10 (fdiv g 0x42200000))) ∧
    formulaRow cfg .lowPass c s al A =
      ⟨fdiv (fsub 0x3F800000 c) 0x40000000, fsub 0x3F800000 c, fdiv (fsub 0x3F800000 c) 0x40000000,
       fadd 0x3F800000 al, fmul 0xC0000000 c, fsub 0x3F800000 al⟩ ∧
    formulaRow cfg .highPass c s al A =
      ⟨fdiv (fadd 0x3F800000 c) 0x40000000, fneg (fadd 0x3F800000 c), fdiv (fadd 0x3F800000 c) 0x40000000,
       fadd 0x3F800000 al, fmul 0xC0000000 c, fsub 0x3F800000 al⟩ ∧
    formulaRow cfg .bandPass c s al A =
      (if cfg.bpfForm = .peak0dB then
        ⟨al, 0x00000000, fneg al, fadd 0x3F800000 al, fmul 0xC0000000 c, fsub 0x3F800000 al⟩
       else
        ⟨fdiv s 0x40000000, 0x00000000, fneg (fdiv s 0x40000000),
         fadd 0x3F800000 al, fmul 0xC0000000 c, fsub 0x3F800000 al⟩) ∧
    formulaRow cfg .notch c s al A =
      ⟨0x3F800000, fmul 0xC0000000 c, 0x3F800000, fadd 0x3F800000 al, fmul 0xC0000000 c, fsub 0x3F800000 al⟩ ∧
    formulaRow cfg .peak c s al A =
      ⟨fadd 0x3F800000 (fmul al A), fmul 0xC0000000 c, fsub 0x3F800000 (fmul al A),
       fadd 0x3F800000 (fdiv al A), fmul 0xC0000000 c, fsub 0x3F800000 (fdiv al A)⟩ ∧
    (let k := fmul (fmul 0x40000000 (fsqrt A)) al
     let P := fadd A 0x3F800000
     let M := fsub A 0x3F800000
     formulaRow cfg .lowShelf c s al A =
      ⟨fmul A (fadd (fsub P (fmul M c)) k), fmul (fmul 0x40000000 A) (fsub M (fmul P c)),
       fmul A (fsub (fsub P (fmul M c)) k), fadd (fadd P (fmul M c)) k,
       fmul 0xC0000000 (fadd M (fmul P c)), fsub (fadd P (fmul M c)) k⟩ ∧
     formulaRow cfg .highShelf c s al A =
      ⟨fmul A (fadd (fadd P (fmul M c)) k), fmul (fmul 0xC0000000 A) (fadd M (fmul P c)),
       fmul A (fsub (fadd P (fmul M c)) k), fadd (fsub P (fmul M c)) k,
       fmul 0x40000000 (fsub M (fmul P c)), fsub (fsub P (fmul M c)) k⟩)

/-- R93, R161: under P1 a gain of ±0.0 dB is the factor 1.0 exactly, under both amplitude laws. -/
def Obligations.ZeroGainIsFactorOne : Prop :=
  ∀ (cfg : Params) (g : F32), cfg.P1 → isZero g = true → ampOf cfg g = 0x3F800000 ∧ linGain cfg g = 0x3F800000

/-- R106 for Peak: under P1, at ±0.0 dB, the set has b = a bit for bit, for every omega and alpha, under both laws. -/
def Obligations.PeakIsIdentityAtZeroGain : Prop :=
  ∀ (cfg : Params) (omega al g : F32), cfg.P1 → isZero g = true →
    let c := (solveCoefs cfg .peak omega al g).1
    c.b0 = c.a0 ∧ c.b1 = c.a1 ∧ c.b2 = c.a2

/-- R100, R101, R106 for the shelves: the same, where `cos32(omega)` is not a zero. The second clause is the model's
choice (assumption 13) and contradicts R106 as written: the model follows the pseudocode of R100, under which a LowShelf
set with a zero for `cos32(omega)` can have b1 = +0.0 and a1 = -0.0, so b1 ≠ a1. The signs of the zeros are those of
assumption 10. -/
def Obligations.ShelvesAreIdentityAtZeroGain : Prop :=
  (∀ (cfg : Params) (ft : FilterType) (omega al g : F32), ft = .lowShelf ∨ ft = .highShelf → cfg.P1 → isZero g = true →
    isZero (cfg.cos32 omega) = false →
    let c := (solveCoefs cfg ft omega al g).1
    c.b0 = c.a0 ∧ c.b1 = c.a1 ∧ c.b2 = c.a2) ∧
  ∃ (cfg : Params) (omega al g : F32), cfg.P1 ∧ isZero g = true ∧ isZero (cfg.cos32 omega) = true ∧
    (solveCoefs cfg .lowShelf omega al g).1.b1 ≠ (solveCoefs cfg .lowShelf omega al g).1.a1

/-! ## The filter -/

/-- R122: INIT_BAND completes for a valid band and type, with a depth of 1 to 10 in INTERLEAVED mode and any depth field
in BIQUAD mode: the type, the depth (1 in BIQUAD mode), cursor 0, ten slots with zero history and the set computed from
the staging registers, these stored, DIRTY clear, NONFINITE set if CheckCoefs reports the set; nothing else changes. -/
def Obligations.InitBandConstructsTheBand : Prop :=
  ∀ (s : State) (b : Fin 5) (ft : FilterType) (n : Nat), (s.mode = .interleaved → 1 ≤ n ∧ n ≤ 10) →
    ∃ t c, exec (.initBand b (typeCode ft) n) s = .next t ∧
      c = (solveCoefs Config.build ft (mapFreq Config.build s.sampleRate (s.band b).freq (s.band b).q).1
        (mapFreq Config.build s.sampleRate (s.band b).freq (s.band b).q).2 (s.band b).gainDb).1 ∧
      t.band b = { s.band b with
        ftype := ft
        depth := if s.mode = .interleaved then BitVec.ofNat 4 n else 1
        active := 0
        dirty := false
        stFs := s.sampleRate
        stFreq := (s.band b).freq
        stGain := (s.band b).gainDb
        stQ := (s.band b).q
        slots := Vector.replicate 10 ⟨c, ⟨0, 0, 0, 0⟩, ⟨0, 0, 0, 0⟩⟩ } ∧
      t = { s with sticky := (if c.degenerate then s.sticky ||| 0x80 else s.sticky), bands := s.bands.set b (t.band b) }

/-- R123: UPDATE_BAND completes with a recomputation where DIRTY is set or a parameter differs by IEEE equality: all ten
slots take the set of the stored type and the staging values, these become the stored parameters, DIRTY clears,
NONFINITE reports; type, depth, cursor and history stay, and nothing else changes. -/
def Obligations.UpdateBandRecomputes : Prop :=
  ∀ (s : State) (b : Fin 5),
    ((s.band b).dirty = true ∨ feq s.sampleRate (s.band b).stFs = false ∨ feq (s.band b).freq (s.band b).stFreq = false ∨
      feq (s.band b).gainDb (s.band b).stGain = false ∨ feq (s.band b).q (s.band b).stQ = false) →
    ∃ t c, exec (.updateBand b) s = .next t ∧
      c = (solveCoefs Config.build (s.band b).ftype (mapFreq Config.build s.sampleRate (s.band b).freq (s.band b).q).1
        (mapFreq Config.build s.sampleRate (s.band b).freq (s.band b).q).2 (s.band b).gainDb).1 ∧
      (∀ k, (t.band b).slot k = { (s.band b).slot k with coefs := c }) ∧
      t.band b = { s.band b with
        slots := (t.band b).slots
        stFs := s.sampleRate
        stFreq := (s.band b).freq
        stGain := (s.band b).gainDb
        stQ := (s.band b).q
        dirty := false } ∧
      t = { s with sticky := (if c.degenerate then s.sticky ||| 0x80 else s.sticky), bands := s.bands.set b (t.band b) }

/-- R123, R211: UPDATE_BAND completes with no state change at all where DIRTY is clear and all four parameters equal
their stored values. -/
def Obligations.UpdateBandIsLazy : Prop :=
  ∀ (s : State) (b : Fin 5), (s.band b).dirty = false → feq s.sampleRate (s.band b).stFs = true →
    feq (s.band b).freq (s.band b).stFreq = true → feq (s.band b).gainDb (s.band b).stGain = true →
    feq (s.band b).q (s.band b).stQ = true → exec (.updateBand b) s = .next s

/-- R122: an UPDATE_BAND right after an INIT_BAND that was not refused changes nothing, where no staging value is a
NaN. -/
def Obligations.UpdateAfterInitIsLazy : Prop :=
  ∀ (s t : State) (b : Fin 5) (ft n : Nat), s.pslverr = false →
    (∀ v ∈ [s.sampleRate, (s.band b).freq, (s.band b).gainDb, (s.band b).q], isNaN v = false) →
    exec (.initBand b ft n) s = .next t → t.pslverr = false → exec (.updateBand b) t = .next t

/-- R120, R124: PROCESS_BAND completes for a valid band in every state: each output is the Direct-Form-I expression of
the active slot's coefficients and that channel's history, which shifts by the sample; OUT_L and OUT_R take the outputs,
NONFINITE is set exactly if one is not finite; ACTIVE stays, and nothing else changes. -/
def Obligations.ProcessBandFiltersTheActiveSlot : Prop :=
  ∀ (s : State) (b : Fin 5), ∃ t, exec (.processBand b) s = .next t ∧
    (let x := s.band b
     let y := x.slot x.active
     let c := y.coefs
     t.outL = fdiv (fsub (fsub (fadd (fadd (fmul c.b0 s.inL) (fmul c.b1 y.left.x1)) (fmul c.b2 y.left.x2))
        (fmul c.a1 y.left.y1)) (fmul c.a2 y.left.y2)) c.a0 ∧
     t.outR = fdiv (fsub (fsub (fadd (fadd (fmul c.b0 s.inR) (fmul c.b1 y.right.x1)) (fmul c.b2 y.right.x2))
        (fmul c.a1 y.right.y1)) (fmul c.a2 y.right.y2)) c.a0 ∧
     let y' : Slot := ⟨c, ⟨s.inL, y.left.x1, t.outL, y.left.y1⟩, ⟨s.inR, y.right.x1, t.outR, y.right.y1⟩⟩
     t = { s with
       outL := t.outL
       outR := t.outR
       sticky := if isFinite t.outL = true ∧ isFinite t.outR = true then s.sticky else s.sticky ||| 0x80
       bands := s.bands.set b { x with slots := x.slots.set x.active y' } })

/-- R121: the two lanes read the same coefficients and separate histories, so the order in which they step does not
matter: the outputs and the state after both are the same. -/
def Obligations.LaneOrderDoesNotMatter : Prop :=
  ∀ (s : State) (b : Fin 5) (k : Fin 10) (xl xr : F32),
    stepPair b k (xl, xr) s = (((df1 b k .left xl s).1, (df1 b k .right xr (df1 b k .left xl s).2).1),
      (df1 b k .right xr (df1 b k .left xl s).2).2) ∧
    (df1 b k .right xr s).1 = (stepPair b k (xl, xr) s).1.2 ∧
    (df1 b k .left xl (df1 b k .right xr s).2).1 = (stepPair b k (xl, xr) s).1.1 ∧
    (df1 b k .left xl (df1 b k .right xr s).2).2 = (stepPair b k (xl, xr) s).2

/-- R125: RESET_HISTORY completes in every state: all eight history words of every slot of every band are +0.0; every
coefficient, stored parameter, BAND_STAT and global register stays. -/
def Obligations.ResetHistoryClearsEverySlot : Prop :=
  ∀ s : State, ∃ t, exec .resetHistory s = .next t ∧
    (∀ b k, (t.band b).slot k = ⟨((s.band b).slot k).coefs, ⟨0, 0, 0, 0⟩, ⟨0, 0, 0, 0⟩⟩) ∧
    (∀ b, t.band b = { s.band b with slots := (t.band b).slots }) ∧
    t = { s with bands := t.bands }

/-- R126: a lane with finite coefficients, a0 not a zero, and a history of zeros of either sign answers any number of
zero samples with zeros, and its history stays zeros. -/
def Obligations.SilenceStaysSilence : Prop :=
  ∀ (c : Coefs) (h : Lane) (xs : List F32), c.Sound → h.Silent → (∀ x ∈ xs, isZero x = true) →
    (∀ y ∈ (laneRun c h xs).1, isZero y = true) ∧ (laneRun c h xs).2.Silent

/-- R127: with finite coefficients, on zero history, the output for 1.0 is `b0 ÷ a0` where b0 is not a zero, and the
next one, for +0.0, is `(b1 - (a1 × y0)) ÷ a0` where b1 is not a zero, up to the sign of a zero. -/
def Obligations.ImpulseTaps : Prop :=
  ∀ c : Coefs, (∀ v ∈ [c.b0, c.b1, c.b2, c.a0, c.a1, c.a2], isFinite v = true) →
    let y0 := df1Output c ⟨0, 0, 0, 0⟩ 0x3F800000
    let y1 := df1Output c ⟨0x3F800000, 0, y0, 0⟩ 0x00000000
    let e := fdiv (fsub c.b1 (fmul c.a1 y0)) c.a0
    (isZero c.b0 = false → y0 = fdiv c.b0 c.a0) ∧
    (isZero c.b1 = false → y1 = e ∨ (isZero y1 = true ∧ isZero e = true))

/-- R169's derivation for one identity slot: with b = a, finite and a0 not a zero, on zero history, the impulse 1.0
followed by any number of zeros comes out as 1.0 followed by zeros. -/
def Obligations.IdentitySlotPassesTheImpulse : Prop :=
  ∀ (c : Coefs) (n : Nat), c.Sound → c.b0 = c.a0 → c.b1 = c.a1 → c.b2 = c.a2 →
    ∃ ys, (laneRun c ⟨0, 0, 0, 0⟩ (0x3F800000 :: List.replicate n 0x00000000)).1 = 0x3F800000 :: ys ∧
      ∀ y ∈ ys, isZero y = true

/-! ## The interleaved bank -/

/-- R142: in INTERLEAVED mode SET_TYPE completes for a valid band and type: TYPE takes the type and DIRTY is set, even
for the type the band has; nothing else changes. -/
def Obligations.SetTypeSetsTypeAndDirty : Prop :=
  ∀ (s : State) (b : Fin 5) (ft : FilterType), s.mode = .interleaved →
    exec (.setType b (typeCode ft)) s =
      .next { s with bands := s.bands.set b { s.band b with ftype := ft, dirty := true } }

/-- R141: in INTERLEAVED mode SET_INTERLEAVE completes for a valid band and a depth of 1 to 10: slots from the old depth
up to the new one start from zero history, every other slot and all coefficients stay, DEPTH is the new depth, a cursor
outside it goes to 0; nothing else changes. -/
def Obligations.SetInterleaveResizesTheBank : Prop :=
  ∀ (s : State) (b : Fin 5) (n : Nat), s.mode = .interleaved → 1 ≤ n → n ≤ 10 →
    ∃ t, exec (.setInterleave b n) s = .next t ∧
      (∀ k : Fin 10, (t.band b).slot k =
        if (s.band b).depth.toNat ≤ k.val ∧ k.val < n then
          ⟨((s.band b).slot k).coefs, ⟨0, 0, 0, 0⟩, ⟨0, 0, 0, 0⟩⟩
        else (s.band b).slot k) ∧
      (t.band b).depth.toNat = n ∧
      (t.band b).active = (if n ≤ (s.band b).active.val then 0 else (s.band b).active) ∧
      t.band b = { s.band b with slots := (t.band b).slots, depth := (t.band b).depth, active := (t.band b).active } ∧
      t = { s with bands := s.bands.set b (t.band b) }

/-- R143: in INTERLEAVED mode INCREMENT_INDEX completes for a valid band within its ranges: ACTIVE is
`(ACTIVE + 1) mod DEPTH`; nothing else changes. -/
def Obligations.IncrementIndexAdvancesTheCursor : Prop :=
  ∀ (s : State) (b : Fin 5), s.mode = .interleaved → (s.band b).InRange →
    ∃ t, exec (.incrementIndex b) s = .next t ∧
      (t.band b).active.val = ((s.band b).active.val + 1) % (s.band b).depth.toNat ∧
      t = { s with bands := s.bands.set b { s.band b with active := (t.band b).active } }

/-- R144: DEPTH consecutive INCREMENT_INDEX commands on a band return the whole state, and pass through every index
below DEPTH exactly once. -/
def Obligations.IncrementIndexIsCyclic : Prop :=
  ∀ (s : State) (b : Fin 5), s.mode = .interleaved → (s.band b).InRange →
    repeatCommand (.incrementIndex b) (s.band b).depth.toNat s = .next s ∧
    ∀ j, j < (s.band b).depth.toNat →
      ∃ m t, m < (s.band b).depth.toNat ∧ repeatCommand (.incrementIndex b) m s = .next t ∧ (t.band b).active.val = j ∧
        ∀ m' t', m' < (s.band b).depth.toNat → repeatCommand (.incrementIndex b) m' s = .next t' →
          (t'.band b).active.val = j → m' = m

/-! ## The band chain -/

/-- R160 to R162, R164 to R166: TICK completes in every state: PRE takes the gained input, the cascade of bands 0 to 4
with OSF + 1 passes each runs on it after the lazy update of every band, OUT takes the crossfade times the output gain,
NONFINITE is also set if an output is not finite; every global register but PRE, OUT and STATUS, and every band's
staging values, type and depth, stay. -/
def Obligations.TickRunsThePipeline : Prop :=
  ∀ s : State, ∃ t, exec .tick s = .next t ∧
    (let cfg := Config.build
     let gin := cfg.exp10 (fdiv s.inGainDb 0x41A00000)
     let gout := cfg.exp10 (fdiv s.outGainDb 0x41A00000)
     let pl := fmul s.inL gin
     let pr := fmul s.inR gin
     let u := [0, 1, 2, 3, 4].foldl (fun t b => lazyUpdate cfg b t) { s with preL := pl, preR := pr }
     let r := ([0, 1, 2, 3, 4] : List (Fin 5)).foldl
       (fun acc b => (List.range (s.osf.toNat + 1)).foldl (onePass cfg s.mode b) acc) ((pl, pr), u)
     let mix := fun d v => fmul (fadd (fmul (fsub 0x3F800000 s.wetMix) d) (fmul s.wetMix v)) gout
     t.preL = pl ∧ t.preR = pr ∧
     t.outL = mix (if cfg.dryTap = .postInputGain then pl else s.inL) r.1.1 ∧
     t.outR = mix (if cfg.dryTap = .postInputGain then pr else s.inR) r.1.2 ∧
     t.bands = r.2.bands ∧
     t.sticky = (if isFinite t.outL = true ∧ isFinite t.outR = true then r.2.sticky else r.2.sticky ||| 0x80)) ∧
    (∀ b, (t.band b).freq = (s.band b).freq ∧ (t.band b).gainDb = (s.band b).gainDb ∧ (t.band b).q = (s.band b).q ∧
      (t.band b).ftype = (s.band b).ftype ∧ (t.band b).depth = (s.band b).depth) ∧
    t = { s with preL := t.preL, preR := t.preR, outL := t.outL, outR := t.outR, sticky := t.sticky, bands := t.bands }

/-- R162, R163: one pass of a band is the step pair of its active slot on the pass's input, with the cursor advanced
after it under AFTER_EACH, or before it under BETWEEN unless it is the first pass, in INTERLEAVED mode only. -/
def Obligations.OnePassStepsTheActiveSlot : Prop :=
  ∀ (cfg : Params) (m : Mode) (b : Fin 5) (v : F32 × F32) (s : State) (p : Nat),
    (m = .biquad → onePass cfg m b (v, s) p = stepPair b (s.band b).active v s) ∧
    (m = .interleaved → cfg.incPolicy = .afterEach →
      onePass cfg m b (v, s) p =
        ((stepPair b (s.band b).active v s).1, incIdx b (stepPair b (s.band b).active v s).2)) ∧
    (m = .interleaved → cfg.incPolicy = .between → p = 0 → onePass cfg m b (v, s) p = stepPair b (s.band b).active v s) ∧
    (m = .interleaved → cfg.incPolicy = .between → 0 < p →
      onePass cfg m b (v, s) p = stepPair b ((incIdx b s).band b).active v (incIdx b s))

/-- R163: how far TICK moves each cursor: not at all in BIQUAD mode; OSF + 1 places under AFTER_EACH and OSF places under
BETWEEN in INTERLEAVED mode, modulo DEPTH. -/
def Obligations.TickRotatesByItsPasses : Prop :=
  ∀ (cfg : Params) (s : State) (b : Fin 5), s.Inv →
    (s.mode = .biquad → ((runTick cfg s).band b).active = (s.band b).active) ∧
    (s.mode = .interleaved → cfg.incPolicy = .afterEach →
      ((runTick cfg s).band b).active.val = ((s.band b).active.val + (s.osf.toNat + 1)) % (s.band b).depth.toNat) ∧
    (s.mode = .interleaved → cfg.incPolicy = .between →
      ((runTick cfg s).band b).active.val = ((s.band b).active.val + s.osf.toNat) % (s.band b).depth.toNat)

/-- R123, R162 step 2: after TICK no band is DIRTY; a band that had to recompute holds the set of its type and staging
values in all ten slots and has stored these; any other band keeps its coefficients and stored parameters. -/
def Obligations.TickUpdatesEveryBand : Prop :=
  ∀ (s t : State) (b : Fin 5), exec .tick s = .next t →
    (t.band b).dirty = false ∧
    (if (s.band b).dirty = true ∨ parametersChanged b s = true then
      (∀ k, ((t.band b).slot k).coefs =
        bandCoefs Config.build (s.band b).ftype s.sampleRate (s.band b).freq (s.band b).gainDb (s.band b).q) ∧
      (t.band b).stFs = s.sampleRate ∧ (t.band b).stFreq = (s.band b).freq ∧ (t.band b).stGain = (s.band b).gainDb ∧
      (t.band b).stQ = (s.band b).q
    else
      (∀ k, ((t.band b).slot k).coefs = ((s.band b).slot k).coefs) ∧
      (t.band b).stFs = (s.band b).stFs ∧ (t.band b).stFreq = (s.band b).stFreq ∧
      (t.band b).stGain = (s.band b).stGain ∧ (t.band b).stQ = (s.band b).stQ)

/-- R168: with WET_MIX = +0.0 and both gains ±0.0 dB, under P1 and either DRY_TAP, each output of TICK is its input bit
for bit where the inputs and the chain's outputs are finite, but for an input of -0.0, which gives a zero of the sign the
sum has (assumption 13). -/
def Obligations.DryMixReproducesTheInput : Prop :=
  ∀ (cfg : Params) (s : State), cfg.P1 → isZero s.inGainDb = true → isZero s.outGainDb = true → s.wetMix = 0x00000000 →
    isFinite s.inL = true → isFinite s.inR = true →
    (let v := (cascade cfg s.mode s.osf.toNat (s.inL, s.inR)
       (updateAll cfg { s with preL := s.inL, preR := s.inR })).1
     isFinite v.1 = true ∧ isFinite v.2 = true) →
    (s.inL ≠ 0x80000000 → (runTick cfg s).outL = s.inL) ∧ (s.inL = 0x80000000 → isZero (runTick cfg s).outL = true) ∧
    (s.inR ≠ 0x80000000 → (runTick cfg s).outR = s.inR) ∧ (s.inR = 0x80000000 → isZero (runTick cfg s).outR = true)

/-- R168: with WET_MIX = 1.0 the crossfade of a finite dry value gives the wet value, bit for bit but for zeros, which
give a zero (assumption 13), and under P1 an output gain of ±0.0 dB leaves it so. -/
def Obligations.FullWetReproducesTheChain : Prop :=
  ∀ (cfg : Params) (g dry wet : F32), cfg.P1 → isZero g = true → isFinite dry = true → isNaN wet = false →
    (isZero wet = false → fmul (crossfade 0x3F800000 dry wet) (linGain cfg g) = wet) ∧
    (isZero wet = true → isZero (fmul (crossfade 0x3F800000 dry wet) (linGain cfg g)) = true)

/-- R169's first TICK: five identity bands (b = a, finite, a0 not a zero) on zero history that need no update, WET_MIX
1.0, both gains ±0.0 dB, OSF 0, IN_L 1.0, IN_R +0.0, under P1: OUT_L is 1.0 and OUT_R a zero, in both modes and under
every policy. -/
def Obligations.IdentityChainPassesTheImpulse : Prop :=
  ∀ (cfg : Params) (s : State), cfg.P1 → isZero s.inGainDb = true → isZero s.outGainDb = true →
    s.wetMix = 0x3F800000 → s.osf = 0 → s.inL = 0x3F800000 → s.inR = 0x00000000 →
    (∀ b, (s.band b).dirty = false ∧ parametersChanged b s = false ∧
      ∀ k, ((s.band b).slot k).coefs.Sound ∧ ((s.band b).slot k).coefs.b0 = ((s.band b).slot k).coefs.a0 ∧
        ((s.band b).slot k).left = ⟨0, 0, 0, 0⟩ ∧ ((s.band b).slot k).right = ⟨0, 0, 0, 0⟩) →
    (runTick cfg s).outL = 0x3F800000 ∧ isZero (runTick cfg s).outR = true

/-! ## Arithmetic -/

/-- R12: rounding is to nearest, ties to even: where it does not overflow, no finite magnitude is nearer to the exact
value `n / d` than the result, and where another is as near, the result's last bit is 0. And the operators round once: on
finite operands a sum, a difference, a product and a quotient (by a number that is not a zero) are the sign and the
rounded magnitude of the exact result, and the root of a number above zero is the number nearest to the exact root. The
sign of a sum that is exactly zero is that of the IEEE-754 standard (assumption 10). -/
def Obligations.RoundingIsNearestEven : Prop :=
  (∀ n d p : Nat, 0 < d → roundMag n d < 0x7F800000 → p < 0x7F800000 →
    distTimes d n (patternMag (roundMag n d)) ≤ distTimes d n (patternMag p) ∧
    (distTimes d n (patternMag (roundMag n d)) = distTimes d n (patternMag p) → p ≠ roundMag n d →
      roundMag n d % 2 = 0)) ∧
  (∀ a b : F32, isFinite a = true → isFinite b = true →
    fadd a b = signedRound (if numOf a + numOf b = 0 then a.msb && b.msb else decide (numOf a + numOf b < 0))
      (numOf a + numOf b).natAbs 1 ∧
    fsub a b = signedRound (if numOf a - numOf b = 0 then a.msb && !b.msb else decide (numOf a - numOf b < 0))
      (numOf a - numOf b).natAbs 1 ∧
    fmul a b = signedRound (a.msb ^^ b.msb) (magOf a * magOf b) (2 ^ 149) ∧
    (isZero b = false → fdiv a b = signedRound (a.msb ^^ b.msb) (magOf a * 2 ^ 149) (magOf b))) ∧
  ∀ a : F32, isFinite a = true → a.msb = false → isZero a = false →
    ∃ r, fsqrt a = BitVec.ofNat 32 r ∧ NearestRoot (magOf a * 2 ^ 149) r

/-- R12, R13: rounding overflows to infinity exactly from half a unit above the greatest finite number, the boundary of
the IEEE-754 standard that R12 names (assumption 10). So an exact sum, difference, product or quotient of finite operands
from there on gives the infinity of its sign. -/
def Obligations.RoundingOverflowsToInfinity : Prop :=
  (∀ n d : Nat, 0 < d → (roundMag n d = 0x7F800000 ↔ (2 ^ 25 - 1) * 2 ^ 252 * d ≤ n)) ∧
  ∀ a b : F32, isFinite a = true → isFinite b = true →
    ((2 ^ 25 - 1) * 2 ^ 252 ≤ (numOf a + numOf b).natAbs →
      fadd a b = if numOf a + numOf b < 0 then 0xFF800000 else 0x7F800000) ∧
    ((2 ^ 25 - 1) * 2 ^ 252 ≤ (numOf a - numOf b).natAbs →
      fsub a b = if numOf a - numOf b < 0 then 0xFF800000 else 0x7F800000) ∧
    ((2 ^ 25 - 1) * 2 ^ 252 * 2 ^ 149 ≤ magOf a * magOf b →
      fmul a b = if a.msb ≠ b.msb then 0xFF800000 else 0x7F800000) ∧
    (isZero b = false → (2 ^ 25 - 1) * 2 ^ 252 * magOf b ≤ magOf a * 2 ^ 149 →
      fdiv a b = if a.msb ≠ b.msb then 0xFF800000 else 0x7F800000)

/-- R12, R13: every NaN that one of R12's six operators (sum, difference, product, quotient, root, negation) produces is
the canonical one, also from a NaN operand; a NaN operand makes the result of each a NaN; and `-a` of anything else flips
the sign bit only. That R13's law governs `-a` of a NaN is read from R12's last sentence (assumption 6). -/
def Obligations.NaNResultsAreCanonical : Prop :=
  ∀ a b : F32,
    (∀ y ∈ [fadd a b, fsub a b, fmul a b, fdiv a b], isNaN a = true ∨ isNaN b = true ∨ isNaN y = true → y = 0x7FC00000) ∧
    (∀ y ∈ [fsqrt a, fneg a], isNaN a = true ∨ isNaN y = true → y = 0x7FC00000) ∧
    (isNaN a = false → fneg a = a ^^^ 0x80000000)

/-- R12: `feq` is false on a NaN, true for the two zeros against each other, and otherwise equality of patterns. -/
def Obligations.FeqIsIeeeEquality : Prop :=
  ∀ a b : F32, feq a b = true ↔ isNaN a = false ∧ isNaN b = false ∧ (a = b ∨ (isZero a = true ∧ isZero b = true))
end

