-- ==== Sys2Proof/Laws/State.lean ====
section
/-! SUPPORT. What each update of State, Band and Slot leaves in each field: true by rfl, tagged simp, so that no proof
unfolds a record update. -/

namespace Sys2Proof.Machine

section
variable (s : State) (x : Band) (y : Slot)

@[simp] theorem State.refuse_mode (c : Cause) (w : Word) : (s.refuse c w).mode = s.mode := rfl
@[simp] theorem State.refuse_osf (c : Cause) (w : Word) : (s.refuse c w).osf = s.osf := rfl
@[simp] theorem State.refuse_sticky (c : Cause) (w : Word) : (s.refuse c w).sticky = s.sticky ||| c.bit := rfl
@[simp] theorem State.refuse_lastErr (c : Cause) (w : Word) : (s.refuse c w).lastErr = c.code := rfl
@[simp] theorem State.refuse_errInfo (c : Cause) (w : Word) : (s.refuse c w).errInfo = w := rfl
@[simp] theorem State.refuse_sampleRate (c : Cause) (w : Word) : (s.refuse c w).sampleRate = s.sampleRate := rfl
@[simp] theorem State.refuse_inGainDb (c : Cause) (w : Word) : (s.refuse c w).inGainDb = s.inGainDb := rfl
@[simp] theorem State.refuse_outGainDb (c : Cause) (w : Word) : (s.refuse c w).outGainDb = s.outGainDb := rfl
@[simp] theorem State.refuse_wetMix (c : Cause) (w : Word) : (s.refuse c w).wetMix = s.wetMix := rfl
@[simp] theorem State.refuse_inL (c : Cause) (w : Word) : (s.refuse c w).inL = s.inL := rfl
@[simp] theorem State.refuse_inR (c : Cause) (w : Word) : (s.refuse c w).inR = s.inR := rfl
@[simp] theorem State.refuse_outL (c : Cause) (w : Word) : (s.refuse c w).outL = s.outL := rfl
@[simp] theorem State.refuse_outR (c : Cause) (w : Word) : (s.refuse c w).outR = s.outR := rfl
@[simp] theorem State.refuse_preL (c : Cause) (w : Word) : (s.refuse c w).preL = s.preL := rfl
@[simp] theorem State.refuse_preR (c : Cause) (w : Word) : (s.refuse c w).preR = s.preR := rfl
@[simp] theorem State.refuse_solver (c : Cause) (w : Word) : (s.refuse c w).solver = s.solver := rfl
@[simp] theorem State.refuse_bands (c : Cause) (w : Word) : (s.refuse c w).bands = s.bands := rfl
@[simp] theorem State.refuse_pending (c : Cause) (w : Word) : (s.refuse c w).pending = s.pending := rfl
@[simp] theorem State.refuse_prdata (c : Cause) (w : Word) : (s.refuse c w).prdata = s.prdata := rfl
@[simp] theorem State.refuse_pslverr (c : Cause) (w : Word) : (s.refuse c w).pslverr = true := rfl

@[simp] theorem State.noteNonfinite_mode (bad : Bool) : (s.noteNonfinite bad).mode = s.mode := rfl
@[simp] theorem State.noteNonfinite_osf (bad : Bool) : (s.noteNonfinite bad).osf = s.osf := rfl
@[simp] theorem State.noteNonfinite_sticky (bad : Bool) : (s.noteNonfinite bad).sticky = (if bad then s.sticky ||| nonfiniteBit else s.sticky) := rfl
@[simp] theorem State.noteNonfinite_lastErr (bad : Bool) : (s.noteNonfinite bad).lastErr = s.lastErr := rfl
@[simp] theorem State.noteNonfinite_errInfo (bad : Bool) : (s.noteNonfinite bad).errInfo = s.errInfo := rfl
@[simp] theorem State.noteNonfinite_sampleRate (bad : Bool) : (s.noteNonfinite bad).sampleRate = s.sampleRate := rfl
@[simp] theorem State.noteNonfinite_inGainDb (bad : Bool) : (s.noteNonfinite bad).inGainDb = s.inGainDb := rfl
@[simp] theorem State.noteNonfinite_outGainDb (bad : Bool) : (s.noteNonfinite bad).outGainDb = s.outGainDb := rfl
@[simp] theorem State.noteNonfinite_wetMix (bad : Bool) : (s.noteNonfinite bad).wetMix = s.wetMix := rfl
@[simp] theorem State.noteNonfinite_inL (bad : Bool) : (s.noteNonfinite bad).inL = s.inL := rfl
@[simp] theorem State.noteNonfinite_inR (bad : Bool) : (s.noteNonfinite bad).inR = s.inR := rfl
@[simp] theorem State.noteNonfinite_outL (bad : Bool) : (s.noteNonfinite bad).outL = s.outL := rfl
@[simp] theorem State.noteNonfinite_outR (bad : Bool) : (s.noteNonfinite bad).outR = s.outR := rfl
@[simp] theorem State.noteNonfinite_preL (bad : Bool) : (s.noteNonfinite bad).preL = s.preL := rfl
@[simp] theorem State.noteNonfinite_preR (bad : Bool) : (s.noteNonfinite bad).preR = s.preR := rfl
@[simp] theorem State.noteNonfinite_solver (bad : Bool) : (s.noteNonfinite bad).solver = s.solver := rfl
@[simp] theorem State.noteNonfinite_bands (bad : Bool) : (s.noteNonfinite bad).bands = s.bands := rfl
@[simp] theorem State.noteNonfinite_pending (bad : Bool) : (s.noteNonfinite bad).pending = s.pending := rfl
@[simp] theorem State.noteNonfinite_prdata (bad : Bool) : (s.noteNonfinite bad).prdata = s.prdata := rfl
@[simp] theorem State.noteNonfinite_pslverr (bad : Bool) : (s.noteNonfinite bad).pslverr = s.pslverr := rfl

@[simp] theorem State.clearSticky_mode (v : Word) : (s.clearSticky v).mode = s.mode := rfl
@[simp] theorem State.clearSticky_osf (v : Word) : (s.clearSticky v).osf = s.osf := rfl
@[simp] theorem State.clearSticky_sticky (v : Word) : (s.clearSticky v).sticky = s.sticky &&& ~~~ (v.extractLsb' 0 8) := rfl
@[simp] theorem State.clearSticky_lastErr (v : Word) : (s.clearSticky v).lastErr = s.lastErr := rfl
@[simp] theorem State.clearSticky_errInfo (v : Word) : (s.clearSticky v).errInfo = s.errInfo := rfl
@[simp] theorem State.clearSticky_sampleRate (v : Word) : (s.clearSticky v).sampleRate = s.sampleRate := rfl
@[simp] theorem State.clearSticky_inGainDb (v : Word) : (s.clearSticky v).inGainDb = s.inGainDb := rfl
@[simp] theorem State.clearSticky_outGainDb (v : Word) : (s.clearSticky v).outGainDb = s.outGainDb := rfl
@[simp] theorem State.clearSticky_wetMix (v : Word) : (s.clearSticky v).wetMix = s.wetMix := rfl
@[simp] theorem State.clearSticky_inL (v : Word) : (s.clearSticky v).inL = s.inL := rfl
@[simp] theorem State.clearSticky_inR (v : Word) : (s.clearSticky v).inR = s.inR := rfl
@[simp] theorem State.clearSticky_outL (v : Word) : (s.clearSticky v).outL = s.outL := rfl
@[simp] theorem State.clearSticky_outR (v : Word) : (s.clearSticky v).outR = s.outR := rfl
@[simp] theorem State.clearSticky_preL (v : Word) : (s.clearSticky v).preL = s.preL := rfl
@[simp] theorem State.clearSticky_preR (v : Word) : (s.clearSticky v).preR = s.preR := rfl
@[simp] theorem State.clearSticky_solver (v : Word) : (s.clearSticky v).solver = s.solver := rfl
@[simp] theorem State.clearSticky_bands (v : Word) : (s.clearSticky v).bands = s.bands := rfl
@[simp] theorem State.clearSticky_pending (v : Word) : (s.clearSticky v).pending = s.pending := rfl
@[simp] theorem State.clearSticky_prdata (v : Word) : (s.clearSticky v).prdata = s.prdata := rfl
@[simp] theorem State.clearSticky_pslverr (v : Word) : (s.clearSticky v).pslverr = s.pslverr := rfl

@[simp] theorem State.setBand_mode (b : Fin 5) : (s.setBand b x).mode = s.mode := rfl
@[simp] theorem State.setBand_osf (b : Fin 5) : (s.setBand b x).osf = s.osf := rfl
@[simp] theorem State.setBand_sticky (b : Fin 5) : (s.setBand b x).sticky = s.sticky := rfl
@[simp] theorem State.setBand_lastErr (b : Fin 5) : (s.setBand b x).lastErr = s.lastErr := rfl
@[simp] theorem State.setBand_errInfo (b : Fin 5) : (s.setBand b x).errInfo = s.errInfo := rfl
@[simp] theorem State.setBand_sampleRate (b : Fin 5) : (s.setBand b x).sampleRate = s.sampleRate := rfl
@[simp] theorem State.setBand_inGainDb (b : Fin 5) : (s.setBand b x).inGainDb = s.inGainDb := rfl
@[simp] theorem State.setBand_outGainDb (b : Fin 5) : (s.setBand b x).outGainDb = s.outGainDb := rfl
@[simp] theorem State.setBand_wetMix (b : Fin 5) : (s.setBand b x).wetMix = s.wetMix := rfl
@[simp] theorem State.setBand_inL (b : Fin 5) : (s.setBand b x).inL = s.inL := rfl
@[simp] theorem State.setBand_inR (b : Fin 5) : (s.setBand b x).inR = s.inR := rfl
@[simp] theorem State.setBand_outL (b : Fin 5) : (s.setBand b x).outL = s.outL := rfl
@[simp] theorem State.setBand_outR (b : Fin 5) : (s.setBand b x).outR = s.outR := rfl
@[simp] theorem State.setBand_preL (b : Fin 5) : (s.setBand b x).preL = s.preL := rfl
@[simp] theorem State.setBand_preR (b : Fin 5) : (s.setBand b x).preR = s.preR := rfl
@[simp] theorem State.setBand_solver (b : Fin 5) : (s.setBand b x).solver = s.solver := rfl
@[simp] theorem State.setBand_bands (b : Fin 5) : (s.setBand b x).bands = s.bands.set b x := rfl
@[simp] theorem State.setBand_pending (b : Fin 5) : (s.setBand b x).pending = s.pending := rfl
@[simp] theorem State.setBand_prdata (b : Fin 5) : (s.setBand b x).prdata = s.prdata := rfl
@[simp] theorem State.setBand_pslverr (b : Fin 5) : (s.setBand b x).pslverr = s.pslverr := rfl

@[simp] theorem State.offerCommand_mode (w : Word) : (s.offerCommand w).mode = s.mode := rfl
@[simp] theorem State.offerCommand_osf (w : Word) : (s.offerCommand w).osf = s.osf := rfl
@[simp] theorem State.offerCommand_sticky (w : Word) : (s.offerCommand w).sticky = s.sticky := rfl
@[simp] theorem State.offerCommand_lastErr (w : Word) : (s.offerCommand w).lastErr = s.lastErr := rfl
@[simp] theorem State.offerCommand_errInfo (w : Word) : (s.offerCommand w).errInfo = s.errInfo := rfl
@[simp] theorem State.offerCommand_sampleRate (w : Word) : (s.offerCommand w).sampleRate = s.sampleRate := rfl
@[simp] theorem State.offerCommand_inGainDb (w : Word) : (s.offerCommand w).inGainDb = s.inGainDb := rfl
@[simp] theorem State.offerCommand_outGainDb (w : Word) : (s.offerCommand w).outGainDb = s.outGainDb := rfl
@[simp] theorem State.offerCommand_wetMix (w : Word) : (s.offerCommand w).wetMix = s.wetMix := rfl
@[simp] theorem State.offerCommand_inL (w : Word) : (s.offerCommand w).inL = s.inL := rfl
@[simp] theorem State.offerCommand_inR (w : Word) : (s.offerCommand w).inR = s.inR := rfl
@[simp] theorem State.offerCommand_outL (w : Word) : (s.offerCommand w).outL = s.outL := rfl
@[simp] theorem State.offerCommand_outR (w : Word) : (s.offerCommand w).outR = s.outR := rfl
@[simp] theorem State.offerCommand_preL (w : Word) : (s.offerCommand w).preL = s.preL := rfl
@[simp] theorem State.offerCommand_preR (w : Word) : (s.offerCommand w).preR = s.preR := rfl
@[simp] theorem State.offerCommand_solver (w : Word) : (s.offerCommand w).solver = s.solver := rfl
@[simp] theorem State.offerCommand_bands (w : Word) : (s.offerCommand w).bands = s.bands := rfl
@[simp] theorem State.offerCommand_pending (w : Word) : (s.offerCommand w).pending = .write cmdAddr w fullStrobe :: s.pending := rfl
@[simp] theorem State.offerCommand_prdata (w : Word) : (s.offerCommand w).prdata = s.prdata := rfl
@[simp] theorem State.offerCommand_pslverr (w : Word) : (s.offerCommand w).pslverr = s.pslverr := rfl

@[simp] theorem Band.setSlot_freq (k : Fin 10) : (x.setSlot k y).freq = x.freq := rfl
@[simp] theorem Band.setSlot_gainDb (k : Fin 10) : (x.setSlot k y).gainDb = x.gainDb := rfl
@[simp] theorem Band.setSlot_q (k : Fin 10) : (x.setSlot k y).q = x.q := rfl
@[simp] theorem Band.setSlot_ftype (k : Fin 10) : (x.setSlot k y).ftype = x.ftype := rfl
@[simp] theorem Band.setSlot_depth (k : Fin 10) : (x.setSlot k y).depth = x.depth := rfl
@[simp] theorem Band.setSlot_active (k : Fin 10) : (x.setSlot k y).active = x.active := rfl
@[simp] theorem Band.setSlot_dirty (k : Fin 10) : (x.setSlot k y).dirty = x.dirty := rfl
@[simp] theorem Band.setSlot_stFs (k : Fin 10) : (x.setSlot k y).stFs = x.stFs := rfl
@[simp] theorem Band.setSlot_stFreq (k : Fin 10) : (x.setSlot k y).stFreq = x.stFreq := rfl
@[simp] theorem Band.setSlot_stGain (k : Fin 10) : (x.setSlot k y).stGain = x.stGain := rfl
@[simp] theorem Band.setSlot_stQ (k : Fin 10) : (x.setSlot k y).stQ = x.stQ := rfl
@[simp] theorem Band.setSlot_slots (k : Fin 10) : (x.setSlot k y).slots = x.slots.set k y := rfl

@[simp] theorem Band.setCoefs_freq (c : Coefs) : (x.setCoefs c).freq = x.freq := rfl
@[simp] theorem Band.setCoefs_gainDb (c : Coefs) : (x.setCoefs c).gainDb = x.gainDb := rfl
@[simp] theorem Band.setCoefs_q (c : Coefs) : (x.setCoefs c).q = x.q := rfl
@[simp] theorem Band.setCoefs_ftype (c : Coefs) : (x.setCoefs c).ftype = x.ftype := rfl
@[simp] theorem Band.setCoefs_depth (c : Coefs) : (x.setCoefs c).depth = x.depth := rfl
@[simp] theorem Band.setCoefs_active (c : Coefs) : (x.setCoefs c).active = x.active := rfl
@[simp] theorem Band.setCoefs_dirty (c : Coefs) : (x.setCoefs c).dirty = x.dirty := rfl
@[simp] theorem Band.setCoefs_stFs (c : Coefs) : (x.setCoefs c).stFs = x.stFs := rfl
@[simp] theorem Band.setCoefs_stFreq (c : Coefs) : (x.setCoefs c).stFreq = x.stFreq := rfl
@[simp] theorem Band.setCoefs_stGain (c : Coefs) : (x.setCoefs c).stGain = x.stGain := rfl
@[simp] theorem Band.setCoefs_stQ (c : Coefs) : (x.setCoefs c).stQ = x.stQ := rfl

@[simp] theorem Band.clearHistory_freq : (x.clearHistory).freq = x.freq := rfl
@[simp] theorem Band.clearHistory_gainDb : (x.clearHistory).gainDb = x.gainDb := rfl
@[simp] theorem Band.clearHistory_q : (x.clearHistory).q = x.q := rfl
@[simp] theorem Band.clearHistory_ftype : (x.clearHistory).ftype = x.ftype := rfl
@[simp] theorem Band.clearHistory_depth : (x.clearHistory).depth = x.depth := rfl
@[simp] theorem Band.clearHistory_active : (x.clearHistory).active = x.active := rfl
@[simp] theorem Band.clearHistory_dirty : (x.clearHistory).dirty = x.dirty := rfl
@[simp] theorem Band.clearHistory_stFs : (x.clearHistory).stFs = x.stFs := rfl
@[simp] theorem Band.clearHistory_stFreq : (x.clearHistory).stFreq = x.stFreq := rfl
@[simp] theorem Band.clearHistory_stGain : (x.clearHistory).stGain = x.stGain := rfl
@[simp] theorem Band.clearHistory_stQ : (x.clearHistory).stQ = x.stQ := rfl

@[simp] theorem Band.incIndex_freq : (x.incIndex).freq = x.freq := rfl
@[simp] theorem Band.incIndex_gainDb : (x.incIndex).gainDb = x.gainDb := rfl
@[simp] theorem Band.incIndex_q : (x.incIndex).q = x.q := rfl
@[simp] theorem Band.incIndex_ftype : (x.incIndex).ftype = x.ftype := rfl
@[simp] theorem Band.incIndex_depth : (x.incIndex).depth = x.depth := rfl
@[simp] theorem Band.incIndex_dirty : (x.incIndex).dirty = x.dirty := rfl
@[simp] theorem Band.incIndex_stFs : (x.incIndex).stFs = x.stFs := rfl
@[simp] theorem Band.incIndex_stFreq : (x.incIndex).stFreq = x.stFreq := rfl
@[simp] theorem Band.incIndex_stGain : (x.incIndex).stGain = x.stGain := rfl
@[simp] theorem Band.incIndex_stQ : (x.incIndex).stQ = x.stQ := rfl
@[simp] theorem Band.incIndex_slots : (x.incIndex).slots = x.slots := rfl

@[simp] theorem Band.modeChange_freq : (x.modeChange).freq = x.freq := rfl
@[simp] theorem Band.modeChange_gainDb : (x.modeChange).gainDb = x.gainDb := rfl
@[simp] theorem Band.modeChange_q : (x.modeChange).q = x.q := rfl
@[simp] theorem Band.modeChange_ftype : (x.modeChange).ftype = x.ftype := rfl
@[simp] theorem Band.modeChange_depth : (x.modeChange).depth = 1 := rfl
@[simp] theorem Band.modeChange_active : (x.modeChange).active = 0 := rfl
@[simp] theorem Band.modeChange_dirty : (x.modeChange).dirty = x.dirty := rfl
@[simp] theorem Band.modeChange_stFs : (x.modeChange).stFs = x.stFs := rfl
@[simp] theorem Band.modeChange_stFreq : (x.modeChange).stFreq = x.stFreq := rfl
@[simp] theorem Band.modeChange_stGain : (x.modeChange).stGain = x.stGain := rfl
@[simp] theorem Band.modeChange_stQ : (x.modeChange).stQ = x.stQ := rfl
@[simp] theorem Band.modeChange_slots : (x.modeChange).slots = x.clearHistory.slots := rfl

@[simp] theorem Band.setTypeTo_freq (t : FilterType) : (x.setTypeTo t).freq = x.freq := rfl
@[simp] theorem Band.setTypeTo_gainDb (t : FilterType) : (x.setTypeTo t).gainDb = x.gainDb := rfl
@[simp] theorem Band.setTypeTo_q (t : FilterType) : (x.setTypeTo t).q = x.q := rfl
@[simp] theorem Band.setTypeTo_ftype (t : FilterType) : (x.setTypeTo t).ftype = t := rfl
@[simp] theorem Band.setTypeTo_depth (t : FilterType) : (x.setTypeTo t).depth = x.depth := rfl
@[simp] theorem Band.setTypeTo_active (t : FilterType) : (x.setTypeTo t).active = x.active := rfl
@[simp] theorem Band.setTypeTo_dirty (t : FilterType) : (x.setTypeTo t).dirty = true := rfl
@[simp] theorem Band.setTypeTo_stFs (t : FilterType) : (x.setTypeTo t).stFs = x.stFs := rfl
@[simp] theorem Band.setTypeTo_stFreq (t : FilterType) : (x.setTypeTo t).stFreq = x.stFreq := rfl
@[simp] theorem Band.setTypeTo_stGain (t : FilterType) : (x.setTypeTo t).stGain = x.stGain := rfl
@[simp] theorem Band.setTypeTo_stQ (t : FilterType) : (x.setTypeTo t).stQ = x.stQ := rfl
@[simp] theorem Band.setTypeTo_slots (t : FilterType) : (x.setTypeTo t).slots = x.slots := rfl

@[simp] theorem Band.setDepthTo_freq (d : BitVec 4) : (x.setDepthTo d).freq = x.freq := rfl
@[simp] theorem Band.setDepthTo_gainDb (d : BitVec 4) : (x.setDepthTo d).gainDb = x.gainDb := rfl
@[simp] theorem Band.setDepthTo_q (d : BitVec 4) : (x.setDepthTo d).q = x.q := rfl
@[simp] theorem Band.setDepthTo_ftype (d : BitVec 4) : (x.setDepthTo d).ftype = x.ftype := rfl
@[simp] theorem Band.setDepthTo_depth (d : BitVec 4) : (x.setDepthTo d).depth = d := rfl
@[simp] theorem Band.setDepthTo_active (d : BitVec 4) : (x.setDepthTo d).active = (if x.active.val ≥ d.toNat then 0 else x.active) := rfl
@[simp] theorem Band.setDepthTo_dirty (d : BitVec 4) : (x.setDepthTo d).dirty = x.dirty := rfl
@[simp] theorem Band.setDepthTo_stFs (d : BitVec 4) : (x.setDepthTo d).stFs = x.stFs := rfl
@[simp] theorem Band.setDepthTo_stFreq (d : BitVec 4) : (x.setDepthTo d).stFreq = x.stFreq := rfl
@[simp] theorem Band.setDepthTo_stGain (d : BitVec 4) : (x.setDepthTo d).stGain = x.stGain := rfl
@[simp] theorem Band.setDepthTo_stQ (d : BitVec 4) : (x.setDepthTo d).stQ = x.stQ := rfl
@[simp] theorem Band.setDepthTo_slots (d : BitVec 4) : (x.setDepthTo d).slots = zeroIncluded x.depth.toNat d.toNat x.slots := rfl

@[simp] theorem Slot.clearHistory_coefs : y.clearHistory.coefs = y.coefs := rfl
@[simp] theorem Slot.clearHistory_left : y.clearHistory.left = Lane.zero := rfl
@[simp] theorem Slot.clearHistory_right : y.clearHistory.right = Lane.zero := rfl
@[simp] theorem Slot.setLane_left_left (h : Lane) : (y.setLane .left h).left = h := rfl
@[simp] theorem Slot.setLane_left_right (h : Lane) : (y.setLane .left h).right = y.right := rfl
@[simp] theorem Slot.setLane_right_left (h : Lane) : (y.setLane .right h).left = y.left := rfl
@[simp] theorem Slot.setLane_right_right (h : Lane) : (y.setLane .right h).right = h := rfl
@[simp] theorem Slot.setLane_coefs (ch : Channel) (h : Lane) : (y.setLane ch h).coefs = y.coefs := by cases ch <;> rfl
@[simp] theorem Slot.lane_left : y.lane .left = y.left := rfl
@[simp] theorem Slot.lane_right : y.lane .right = y.right := rfl

end

end Sys2Proof.Machine
end

