-- ==== Sys2Proof/Laws/Ops.lean ====
section
/-! SUPPORT. What each shared operation can do, said once: loops over register arrays, bands and slots, the operand
checks, how a command ends, and the invariant of a band. -/

namespace Sys2Proof.Machine

/-! ## Register arrays -/

theorem mapIdxFrom_getElem {α : Type} (f : Nat → α → α) (k i : Nat) (l : List α)
    (h : i < (mapIdxFrom f k l).length) :
    (mapIdxFrom f k l)[i] = f (k + i) (l[i]'(by simpa [mapIdxFrom_length] using h)) := by
  induction l generalizing k i with
  | nil => simp [mapIdxFrom] at h
  | cons x xs ih =>
    cases i with
    | zero => rfl
    | succ i =>
      simp only [mapIdxFrom, List.getElem_cons_succ, ih]
      congr 1; omega

/-- A loop leaves at each index what its body makes of the element there. -/
@[simp] theorem forEach_get {α : Type} {n : Nat} (f : Nat → α → α) (v : Vector α n) (i : Fin n) :
    (forEach f v).get i = f i.val (v.get i) := by
  have h := mapIdxFrom_getElem f 0 i.val v.toList (by simp [mapIdxFrom_length])
  have h' : (mapIdxFrom f 0 v.toList)[i.val]'(by simp [mapIdxFrom_length]) = f i.val (v.get i) := by
    simpa [Vector.get_eq_getElem] using h
  exact h'

/-- Two register arrays with the same elements are the same. -/
theorem vector_ext_get {α : Type} {n : Nat} {v w : Vector α n} (h : ∀ i, v.get i = w.get i) : v = w := by
  ext i hi; exact h ⟨i, hi⟩

@[simp] theorem get_set_same {α : Type} {n : Nat} (v : Vector α n) (i : Fin n) (a : α) : (v.set i a).get i = a := by
  simp [Vector.get_eq_getElem]

theorem get_set_ne {α : Type} {n : Nat} (v : Vector α n) {i j : Fin n} (a : α) (h : j ≠ i) :
    (v.set i a).get j = v.get j := by
  simp only [Vector.get_eq_getElem]
  exact Vector.getElem_set_ne _ _ (fun e => h (Fin.ext e.symm))

/-- Reading an array after one element was written. -/
theorem get_set {α : Type} {n : Nat} (v : Vector α n) (i j : Fin n) (a : α) :
    (v.set i a).get j = if j = i then a else v.get j := by
  split
  next h => subst h; simp
  next h => exact get_set_ne v a h

@[simp] theorem set_set {α : Type} {n : Nat} (v : Vector α n) (i : Fin n) (a b : α) :
    (v.set i a).set i b = v.set i b :=
  vector_ext_get fun j => by simp only [get_set]; split <;> rfl

@[simp] theorem set_get_self {α : Type} {n : Nat} (v : Vector α n) (i : Fin n) : v.set i (v.get i) = v :=
  vector_ext_get fun j => by
    rw [get_set]
    split
    next h => rw [h]
    next => rfl

/-! ## Bands and slots -/

/-- Reading a band after a band was written. -/
theorem State.band_setBand (s : State) (b d : Fin 5) (x : Band) :
    (s.setBand b x).band d = if d = b then x else s.band d := get_set _ _ _ _

@[simp] theorem State.band_setBand_same (s : State) (b : Fin 5) (x : Band) : (s.setBand b x).band b = x :=
  get_set_same _ _ _

theorem State.band_setBand_ne (s : State) {b d : Fin 5} (x : Band) (h : d ≠ b) : (s.setBand b x).band d = s.band d :=
  get_set_ne _ _ h

@[simp] theorem State.setBand_setBand (s : State) (b : Fin 5) (x y : Band) :
    (s.setBand b x).setBand b y = s.setBand b y := by
  simp [State.setBand]

@[simp] theorem State.setBand_band (s : State) (b : Fin 5) : s.setBand b (s.band b) = s := by
  simp [State.setBand, State.band]

@[simp] theorem State.band_noteNonfinite (s : State) (bad : Bool) (b : Fin 5) : (s.noteNonfinite bad).band b = s.band b :=
  rfl

@[simp] theorem State.band_refuse (s : State) (c : Cause) (w : Word) (b : Fin 5) : (s.refuse c w).band b = s.band b :=
  rfl

theorem Band.slot_setSlot (x : Band) (k j : Fin 10) (y : Slot) :
    (x.setSlot k y).slot j = if j = k then y else x.slot j := get_set _ _ _ _

@[simp] theorem Band.slot_setSlot_same (x : Band) (k : Fin 10) (y : Slot) : (x.setSlot k y).slot k = y :=
  get_set_same _ _ _

@[simp] theorem Band.slot_setCoefs (x : Band) (c : Coefs) (k : Fin 10) :
    (x.setCoefs c).slot k = { x.slot k with coefs := c } := forEach_get _ _ _

@[simp] theorem Band.slot_clearHistory (x : Band) (k : Fin 10) : x.clearHistory.slot k = (x.slot k).clearHistory :=
  forEach_get _ _ _

@[simp] theorem Band.slot_modeChange (x : Band) (k : Fin 10) : x.modeChange.slot k = (x.slot k).clearHistory :=
  forEach_get _ _ _

/-- The slots after SET_INTERLEAVE (42_interleaved_bank.md R141). -/
@[simp] theorem zeroIncluded_get (old n : Nat) (v : Vector Slot 10) (k : Fin 10) :
    (zeroIncluded old n v).get k = if old ≤ k.val ∧ k.val < n then (v.get k).clearHistory else v.get k :=
  forEach_get _ _ _

/-- ACTIVE after INCREMENT_INDEX, in a band within its ranges (42_interleaved_bank.md R143). -/
theorem Band.incIndex_active (x : Band) (h : x.InRange) :
    x.incIndex.active.val = (x.active.val + 1) % x.depth.toNat := by
  obtain ⟨h1, h10, -, -⟩ := h
  have : (x.active.val + 1) % x.depth.toNat < x.depth.toNat := Nat.mod_lt _ h1
  exact Nat.mod_eq_of_lt (by omega)

/-! ## Operand checks -/

@[simp] theorem checkBand_val (b : Fin 5) : checkBand b.val = .ok b := by simp [checkBand]

theorem checkBand_of_lt {b : Nat} (h : b < 5) : checkBand b = .ok ⟨b, h⟩ := by simp [checkBand, h]

theorem checkBand_of_ge {b : Nat} (h : 4 < b) : checkBand b = .error .badBand := by
  simp [checkBand, show ¬ b < 5 by omega]

@[simp] theorem checkType_typeCode (t : FilterType) : checkType (typeCode t) = .ok t := by cases t <;> rfl

theorem checkType_of_gt {t : Nat} (h : 6 < t) : checkType t = .error .badType := by
  match t, h with
  | n + 7, _ => rfl

/-- Every code up to 6 is that of a filter type (30_encoding.md R76). -/
theorem exists_typeCode {t : Nat} (h : t ≤ 6) : ∃ ft, typeCode ft = t := by
  match t, h with
  | 0, _ => exact ⟨.lowPass, rfl⟩
  | 1, _ => exact ⟨.highPass, rfl⟩
  | 2, _ => exact ⟨.bandPass, rfl⟩
  | 3, _ => exact ⟨.notch, rfl⟩
  | 4, _ => exact ⟨.peak, rfl⟩
  | 5, _ => exact ⟨.lowShelf, rfl⟩
  | 6, _ => exact ⟨.highShelf, rfl⟩

theorem checkDepth_of_mem {n : Nat} (h : 1 ≤ n ∧ n ≤ 10) : checkDepth n = .ok (BitVec.ofNat 4 n) := by
  simp [checkDepth, h]

theorem checkDepth_of_not_mem {n : Nat} (h : ¬ (1 ≤ n ∧ n ≤ 10)) : checkDepth n = .error .badDepth := by
  simp only [checkDepth, h, if_false]

/-- A checked depth is its operand, 1 to 10. -/
theorem checkDepth_ok {n : Nat} {d : BitVec 4} (h : checkDepth n = .ok d) : d.toNat = n ∧ 1 ≤ n ∧ n ≤ 10 := by
  unfold checkDepth at h
  split at h
  next hn =>
    cases h
    refine ⟨?_, hn⟩
    simp only [BitVec.toNat_ofNat]
    omega
  next => cases h

@[simp] theorem checkInterleaved_biquad : checkInterleaved .biquad = .error .modeErr := rfl
@[simp] theorem checkInterleaved_interleaved : checkInterleaved .interleaved = .ok () := rfl

/-! ## How a command ends -/

@[simp] theorem State.finish_ok (s t : State) (i : Instr) : s.finish i (.ok t) = t := rfl

@[simp] theorem State.finish_error (s : State) (i : Instr) (c : Cause) :
    s.finish i (.error c) = s.refuse c (encode i) := rfl

/-- A command ends in its effect or in a refusal of its word, and in nothing else (60_exceptions.md R183). -/
theorem State.finish_cases (s : State) (i : Instr) (r : Except Cause State) :
    (∃ t, r = .ok t ∧ s.finish i r = t) ∨ ∃ c, r = .error c ∧ s.finish i r = s.refuse c (encode i) := by
  cases r with
  | ok t => exact .inl ⟨t, rfl, rfl⟩
  | error c => exact .inr ⟨c, rfl, rfl⟩

end Sys2Proof.Machine
end

