-- ==== Sys2Proof/Laws/Exec.lean ====
section
/-! SUPPORT. What a command can do, said once: exec of a command refuses, or has the command's effect on checked operands
(`exec_cases`); and what the computing operations leave unchanged (`Untouched`). -/

namespace Sys2Proof.Machine

/-! ## Inversion -/

/-- `t` is the effect of the command on `s`, its checks passed. -/
def EffectOf (i : Instr) (s t : State) : Prop :=
  match i with
  | .nop => t = s
  | .initBand b ft n => ∃ b' ft' d, checkBand b = .ok b' ∧ checkType ft = .ok ft' ∧ initDepth s.mode n = .ok d ∧
      t = runInitBand Config.build b' ft' d s
  | .updateBand b => ∃ b', checkBand b = .ok b' ∧ t = lazyUpdate Config.build b' s
  | .setType b ft => ∃ b' ft', checkBand b = .ok b' ∧ s.mode = .interleaved ∧ checkType ft = .ok ft' ∧
      t = s.setBand b' ((s.band b').setTypeTo ft')
  | .setInterleave b n => ∃ b' d, checkBand b = .ok b' ∧ s.mode = .interleaved ∧ checkDepth n = .ok d ∧
      t = s.setBand b' ((s.band b').setDepthTo d)
  | .processBand b => ∃ b', checkBand b = .ok b' ∧ t = runProcessBand b' s
  | .incrementIndex b => ∃ b', checkBand b = .ok b' ∧ s.mode = .interleaved ∧ t = s.setBand b' (s.band b').incIndex
  | .resetHistory => t = runResetHistory s
  | .tick => t = runTick Config.build s
  | .map => t = runMap Config.build s
  | .solve ft => ∃ ft', checkType ft = .ok ft' ∧ t = runSolve Config.build ft' s

/-- A bind of checks that succeeds, taken apart. -/
theorem bind_ok {α β : Type} {x : Except Cause α} {f : α → Except Cause β} {b : β} (h : (x >>= f) = .ok b) :
    ∃ a, x = .ok a ∧ f a = .ok b := by
  cases x with
  | ok a => exact ⟨a, rfl, h⟩
  | error c => cases h

theorem checkInterleaved_ok {m : Mode} {u : Unit} (h : checkInterleaved m = .ok u) : m = .interleaved := by
  cases m with
  | biquad => cases h
  | interleaved => rfl

/-- A command refuses, changing only the record, or has its effect (60_exceptions.md R183). -/
theorem exec_cases {i : Instr} {s t : State} (h : exec i s = .next t) :
    (∃ c, t = s.refuse c (encode i)) ∨ EffectOf i s t := by
  have ending : ∀ r : Except Cause State, t = s.finish i r → (∀ u, r = .ok u → EffectOf i s u) →
      (∃ c, t = s.refuse c (encode i)) ∨ EffectOf i s t := by
    intro r ht hr
    rcases State.finish_cases s i r with ⟨u, hu, e⟩ | ⟨c, -, e⟩
    · exact .inr (by rw [ht, e]; exact hr u hu)
    · exact .inl ⟨c, by rw [ht, e]⟩
  cases i with
  | nop => cases h; exact .inr rfl
  | initBand b ft n =>
    refine ending _ (Host.Outcome.next.inj h).symm fun u hu => ?_
    obtain ⟨b', hb, hu⟩ := bind_ok hu
    obtain ⟨ft', hf, hu⟩ := bind_ok hu
    obtain ⟨d, hd, hu⟩ := bind_ok hu
    cases hu
    exact ⟨b', ft', d, hb, hf, hd, rfl⟩
  | updateBand b =>
    refine ending _ (Host.Outcome.next.inj h).symm fun u hu => ?_
    obtain ⟨b', hb, hu⟩ := bind_ok hu
    cases hu
    exact ⟨b', hb, rfl⟩
  | setType b ft =>
    refine ending _ (Host.Outcome.next.inj h).symm fun u hu => ?_
    obtain ⟨b', hb, hu⟩ := bind_ok hu
    obtain ⟨_, hm, hu⟩ := bind_ok hu
    obtain ⟨ft', hf, hu⟩ := bind_ok hu
    cases hu
    exact ⟨b', ft', hb, checkInterleaved_ok hm, hf, rfl⟩
  | setInterleave b n =>
    refine ending _ (Host.Outcome.next.inj h).symm fun u hu => ?_
    obtain ⟨b', hb, hu⟩ := bind_ok hu
    obtain ⟨_, hm, hu⟩ := bind_ok hu
    obtain ⟨d, hd, hu⟩ := bind_ok hu
    cases hu
    exact ⟨b', d, hb, checkInterleaved_ok hm, hd, rfl⟩
  | processBand b =>
    refine ending _ (Host.Outcome.next.inj h).symm fun u hu => ?_
    obtain ⟨b', hb, hu⟩ := bind_ok hu
    cases hu
    exact ⟨b', hb, rfl⟩
  | incrementIndex b =>
    refine ending _ (Host.Outcome.next.inj h).symm fun u hu => ?_
    obtain ⟨b', hb, hu⟩ := bind_ok hu
    obtain ⟨_, hm, hu⟩ := bind_ok hu
    cases hu
    exact ⟨b', hb, checkInterleaved_ok hm, rfl⟩
  | resetHistory => cases h; exact .inr rfl
  | tick => cases h; exact .inr rfl
  | map => cases h; exact .inr rfl
  | solve ft =>
    refine ending _ (Host.Outcome.next.inj h).symm fun u hu => ?_
    obtain ⟨ft', hf, hu⟩ := bind_ok hu
    cases hu
    exact ⟨ft', hf, rfl⟩

/-! ## What the computing operations leave alone -/

/-- `t` differs from `s` in bands at most, and in sticky bits that it sets. -/
structure Untouched (s t : State) : Prop where
  rest   : t = { s with sticky := t.sticky, bands := t.bands }
  sticky : s.sticky &&& t.sticky = s.sticky

theorem Untouched.refl (s : State) : Untouched s s := ⟨rfl, BitVec.and_self⟩

theorem Untouched.trans {s t u : State} (h : Untouched s t) (g : Untouched t u) : Untouched s u := by
  refine ⟨by rw [g.rest, h.rest], ?_⟩
  rw [← h.sticky, BitVec.and_assoc, g.sticky]

theorem untouched_setBand (s : State) (b : Fin 5) (x : Band) : Untouched s (s.setBand b x) := ⟨rfl, BitVec.and_self⟩

theorem and_or_left (x y : BitVec 8) : x &&& (x ||| y) = x := by
  ext i hi
  simp only [BitVec.getElem_and, BitVec.getElem_or]
  cases x[i] <;> rfl

theorem untouched_noteNonfinite (s : State) (bad : Bool) : Untouched s (s.noteNonfinite bad) := by
  refine ⟨rfl, ?_⟩
  cases bad
  · exact BitVec.and_self
  · exact and_or_left _ _

theorem untouched_df1 (b : Fin 5) (k : Fin 10) (ch : Channel) (x : F32) (s : State) : Untouched s (df1 b k ch x s).2 :=
  (untouched_setBand _ _ _).trans (untouched_noteNonfinite _ _)

theorem untouched_stepPair (b : Fin 5) (k : Fin 10) (x : F32 × F32) (s : State) : Untouched s (stepPair b k x s).2 :=
  (untouched_df1 b k .left x.1 s).trans (untouched_df1 b k .right x.2 _)

theorem untouched_recompute (cfg : Params) (b : Fin 5) (s : State) : Untouched s (recompute cfg b s) :=
  (untouched_setBand _ _ _).trans (untouched_noteNonfinite _ _)

theorem untouched_lazyUpdate (cfg : Params) (b : Fin 5) (s : State) : Untouched s (lazyUpdate cfg b s) := by
  unfold lazyUpdate
  split
  · exact untouched_recompute cfg b s
  · exact Untouched.refl s

theorem untouched_runInitBand (cfg : Params) (b : Fin 5) (t : FilterType) (d : BitVec 4) (s : State) :
    Untouched s (runInitBand cfg b t d s) := (untouched_setBand _ _ _).trans (untouched_recompute _ _ _)

theorem untouched_incIdx (b : Fin 5) (s : State) : Untouched s (incIdx b s) := untouched_setBand _ _ _

theorem untouched_onePass (cfg : Params) (m : Mode) (b : Fin 5) (acc : (F32 × F32) × State) (p : Nat) :
    Untouched acc.2 (onePass cfg m b acc p).2 := by
  have before : Untouched acc.2 (rotateBefore cfg m b p acc.2) := by
    unfold rotateBefore
    split
    · exact untouched_incIdx _ _
    · exact Untouched.refl _
  have after : ∀ t, Untouched t (rotateAfter cfg m b t) := by
    intro t
    unfold rotateAfter
    split
    · exact untouched_incIdx _ _
    · exact Untouched.refl _
  exact (before.trans (untouched_stepPair _ _ _ _)).trans (after _)

/-- A loop of passes or bands leaves alone what each round leaves alone. -/
theorem untouched_foldl {α β : Type} (f : α × State → β → α × State) (h : ∀ acc b, Untouched acc.2 (f acc b).2)
    (l : List β) (acc : α × State) : Untouched acc.2 (l.foldl f acc).2 := by
  induction l generalizing acc with
  | nil => exact Untouched.refl _
  | cons b l ih => exact (h acc b).trans (ih _)

theorem untouched_bandPasses (cfg : Params) (m : Mode) (k : Nat) (acc : (F32 × F32) × State) (b : Fin 5) :
    Untouched acc.2 (bandPasses cfg m k acc b).2 := untouched_foldl _ (untouched_onePass cfg m b) _ acc

theorem untouched_cascade (cfg : Params) (m : Mode) (k : Nat) (v : F32 × F32) (s : State) :
    Untouched s (cascade cfg m k v s).2 := untouched_foldl _ (untouched_bandPasses cfg m k) _ (v, s)

theorem untouched_updateAll (cfg : Params) (s : State) : Untouched s (updateAll cfg s) := by
  unfold updateAll
  generalize bandOrder = l
  induction l generalizing s with
  | nil => exact Untouched.refl _
  | cons b l ih => exact (untouched_lazyUpdate cfg b s).trans (ih _)

theorem Untouched.withOut {s t : State} (h : Untouched s t) (l r : F32) :
    Untouched { s with outL := l, outR := r } { t with outL := l, outR := r } := by
  refine ⟨?_, h.sticky⟩
  rw [h.rest]

/-- PROCESS_BAND touches OUT_L, OUT_R, its band and sticky bits. -/
theorem untouched_runProcessBand (b : Fin 5) (s : State) :
    Untouched { s with outL := (runProcessBand b s).outL, outR := (runProcessBand b s).outR } (runProcessBand b s) :=
  (untouched_stepPair b (s.band b).active (s.inL, s.inR) s).withOut _ _

/-- TICK touches the taps, OUT, the bands and sticky bits. -/
theorem untouched_runTick (cfg : Params) (s : State) :
    Untouched { s with preL := (runTick cfg s).preL, preR := (runTick cfg s).preR,
                       outL := (runTick cfg s).outL, outR := (runTick cfg s).outR } (runTick cfg s) := by
  have h := (untouched_updateAll cfg { s with
      preL := fmul s.inL (linGain cfg s.inGainDb), preR := fmul s.inR (linGain cfg s.inGainDb) }).trans
    (untouched_cascade cfg s.mode s.osf.toNat
      (fmul s.inL (linGain cfg s.inGainDb), fmul s.inR (linGain cfg s.inGainDb)) _)
  have hl : (runTick cfg s).preL = fmul s.inL (linGain cfg s.inGainDb) := congrArg State.preL h.rest
  have hr : (runTick cfg s).preR = fmul s.inR (linGain cfg s.inGainDb) := congrArg State.preR h.rest
  rw [hl, hr]
  exact (h.withOut _ _).trans (untouched_noteNonfinite _ _)

end Sys2Proof.Machine
end

