-- ==== Sys2Proof/Laws/Float.lean ====
section
/-! SUPPORT. The binary32 operators: what a pattern stands for, rounding an exact value changes nothing, adding a zero,
multiplying and dividing by 1.0, and the zeros (spec 00_scope.md R12, R13). -/

namespace Sys2Proof.Machine

/-! ## Patterns -/

theorem fExp_lt (a : F32) : fExp a < 256 := (a.extractLsb' 23 8).isLt

theorem fFrac_lt (a : F32) : fFrac a < 2 ^ 23 := (a.extractLsb' 0 23).isLt

/-- A pattern is its sign, exponent and fraction. -/
theorem toNat_eq_fields (a : F32) :
    a.toNat = (if fSign a then 2 ^ 31 else 0) + (fExp a * 2 ^ 23 + fFrac a) := by
  have h := a.isLt
  simp only [fSign, fExp, fFrac, BitVec.extractLsb'_toNat, BitVec.msb_eq_decide, Nat.shiftRight_eq_div_pow]
  rw [show 32 - 1 = 31 from rfl] at *
  simp only [decide_eq_true_eq]
  split <;> omega

theorem fPack_fields (a : F32) : fPack (fSign a) (fExp a * 2 ^ 23 + fFrac a) = a := by
  rw [fPack, ← toNat_eq_fields, BitVec.ofNat_toNat, BitVec.setWidth_eq]

/-- The magnitude in units of 2^-149 that an exponent and a fraction stand for. -/
def fieldsMag (e f : Nat) : Nat := if e = 0 then f else (2 ^ 23 + f) * 2 ^ (e - 1)

theorem fVal_finite {a : F32} (h : fExp a ≠ 255) : fVal a = .fin (fSign a) (fieldsMag (fExp a) (fFrac a)) := by
  unfold fVal fieldsMag
  rw [if_neg h]
  split <;> rfl

theorem isFinite_iff (a : F32) : isFinite a = true ↔ fExp a ≠ 255 := by simp [isFinite]

/-- A finite pattern stands for a number. -/
theorem isFinite_iff_fVal (a : F32) : isFinite a = true ↔ ∃ s m, fVal a = .fin s m := by
  rw [isFinite_iff]
  constructor
  · intro h; exact ⟨_, _, fVal_finite h⟩
  · rintro ⟨s, m, h⟩ he
    unfold fVal at h
    rw [if_pos he] at h
    split at h <;> cases h

theorem fVal_fin {a : F32} {s : Bool} {m : Nat} (h : fVal a = .fin s m) :
    fExp a ≠ 255 ∧ s = fSign a ∧ m = fieldsMag (fExp a) (fFrac a) := by
  have hf : fExp a ≠ 255 := (isFinite_iff a).1 ((isFinite_iff_fVal a).2 ⟨s, m, h⟩)
  rw [fVal_finite hf] at h
  cases h
  exact ⟨hf, rfl, rfl⟩

/-! ## Rounding -/

theorem roundMag_le (n d : Nat) : roundMag n d ≤ 0x7F800000 := Nat.min_le_right _ _

theorem roundEven_mul (q u : Nat) (hu : 0 < u) : roundEven (q * u) u = q := by
  unfold roundEven
  rw [Nat.mul_mod_left, Nat.mul_div_cancel _ hu, if_neg]
  rintro (h | ⟨h, -⟩) <;> omega

theorem lostBits_fieldsMag {e f : Nat} (hf : f < 2 ^ 23) : lostBits (fieldsMag e f) = e - 1 := by
  unfold lostBits fieldsMag
  split
  next h =>
    subst h
    have : f.log2 < 23 := by
      by_cases h0 : f = 0
      · subst h0; decide
      · exact (Nat.log2_lt h0).2 hf
    omega
  next h =>
    have hne : (2 ^ 23 + f) * 2 ^ (e - 1) ≠ 0 := by positivity
    have : ((2 ^ 23 + f) * 2 ^ (e - 1)).log2 = 23 + (e - 1) := by
      rw [Nat.log2_eq_iff hne]
      constructor
      · rw [pow_add]; exact Nat.mul_le_mul_right _ (by omega)
      · rw [show 23 + (e - 1) + 1 = 24 + (e - 1) by omega, pow_add]
        exact Nat.mul_lt_mul_of_pos_right (by omega) (by positivity)
    omega

/-- Rounding a magnitude that a finite pattern has gives the pattern back. -/
theorem roundMag_fieldsMag {e f d : Nat} (he : e < 255) (hf : f < 2 ^ 23) (hd : 0 < d) :
    roundMag (fieldsMag e f * d) d = e * 2 ^ 23 + f := by
  have hq : fieldsMag e f * d / d = fieldsMag e f := Nat.mul_div_cancel _ hd
  unfold roundMag
  rw [hq, lostBits_fieldsMag hf]
  have hround : roundEven (fieldsMag e f * d) (d * 2 ^ (e - 1)) = if e = 0 then f else 2 ^ 23 + f := by
    by_cases h : e = 0
    · subst h
      simpa [fieldsMag] using roundEven_mul f d hd
    · have : fieldsMag e f * d = (2 ^ 23 + f) * (d * 2 ^ (e - 1)) := by
        simp only [fieldsMag, if_neg h]; ring
      rw [this, roundEven_mul _ _ (by positivity), if_neg h]
  rw [hround]
  split <;> omega

/-- Rounding an exactly representable value changes nothing. -/
theorem fRound_exact {a : F32} {s : Bool} {m d : Nat} (h : fVal a = .fin s m) (hd : 0 < d) :
    fRound s (m * d) d = a := by
  obtain ⟨he, rfl, rfl⟩ := fVal_fin h
  have := fExp_lt a
  rw [fRound, roundMag_fieldsMag (by omega) (fFrac_lt a) hd, fPack_fields]

/-! ## The number of a pattern, in the terms of Safety -/

theorem extractLsb'_toNat_fields (a : F32) : (a.extractLsb' 0 31).toNat = fExp a * 2 ^ 23 + fFrac a := by
  have he := fExp_lt a
  have hf := fFrac_lt a
  have h := toNat_eq_fields a
  simp only [BitVec.extractLsb'_toNat, Nat.shiftRight_zero]
  split at h <;> omega

theorem patternMag_fields {e f : Nat} (hf : f < 2 ^ 23) : patternMag (e * 2 ^ 23 + f) = fieldsMag e f := by
  have hd : (e * 2 ^ 23 + f) / 2 ^ 23 = e := by omega
  have hm : (e * 2 ^ 23 + f) % 2 ^ 23 = f := by omega
  unfold patternMag fieldsMag
  rw [hd, hm]
  split
  next h => subst h; omega
  next => rfl

/-- A finite pattern stands for its sign and its magnitude. -/
theorem fVal_magOf {a : F32} (h : isFinite a = true) : fVal a = .fin a.msb (magOf a) := by
  rw [fVal_finite ((isFinite_iff a).1 h), magOf, extractLsb'_toNat_fields, patternMag_fields (fFrac_lt a), fSign]

theorem signedMag_magOf (a : F32) : signedMag a.msb (magOf a) = numOf a := rfl

/-- A sign bit before a magnitude pattern. -/
theorem ofBool_append_ofNat {neg : Bool} {m : Nat} (h : m < 2 ^ 31) : BitVec.ofBool neg ++ BitVec.ofNat 31 m = fPack neg m := by
  refine BitVec.eq_of_toNat_eq ?_
  rw [BitVec.toNat_append, BitVec.toNat_ofBool, BitVec.toNat_ofNat, Nat.mod_eq_of_lt h,
    ← Nat.shiftLeft_add_eq_or_of_lt h, Nat.shiftLeft_eq, fPack, BitVec.toNat_ofNat]
  cases neg
  · rw [Nat.mod_eq_of_lt (by simp only [Bool.false_eq_true, if_false]; omega)]; rfl
  · rw [Nat.mod_eq_of_lt (by simp only [if_true]; omega)]; rfl

theorem signedRound_eq_fRound (neg : Bool) (n d : Nat) : signedRound neg n d = fRound neg n d :=
  ofBool_append_ofNat (lt_of_le_of_lt (roundMag_le n d) (by decide))

/-! ## Zeros -/

/-- The two zeros are the patterns of magnitude 0. -/
theorem isZero_iff_fVal (a : F32) : isZero a = true ↔ ∃ s, fVal a = .fin s 0 := by
  constructor
  · intro h
    simp only [isZero, Bool.or_eq_true, beq_iff_eq] at h
    rcases h with rfl | rfl
    · exact ⟨false, by decide⟩
    · exact ⟨true, by decide⟩
  · rintro ⟨s, h⟩
    have := fRound_exact h (d := 1) (by decide)
    rw [← this]
    cases s <;> decide

@[simp] theorem isZero_fZero (s : Bool) : isZero (fZero s) = true := by cases s <;> decide

@[simp] theorem fRound_zero (s : Bool) (d : Nat) : fRound s 0 d = fZero s := by
  have : roundMag 0 d = 0 := by
    have h0 : lostBits 0 = 0 := by decide
    simp [roundMag, h0, roundEven]
  rw [fRound, this, fZero]

theorem isZero_fRound_zero (s : Bool) (d : Nat) : isZero (fRound s 0 d) = true := by simp

theorem isFinite_of_isZero {a : F32} (h : isZero a = true) : isFinite a = true :=
  let ⟨s, hs⟩ := (isZero_iff_fVal a).1 h
  (isFinite_iff_fVal a).2 ⟨s, 0, hs⟩

/-! ## The sign bit -/

theorem flipSign_fields (a : F32) :
    fSign (flipSign a) = !fSign a ∧ fExp (flipSign a) = fExp a ∧ fFrac (flipSign a) = fFrac a := by
  refine ⟨?_, ?_, ?_⟩
  · have h : (0x80000000#32).msb = true := by decide
    simp [fSign, flipSign, BitVec.msb_xor, h]
  · simp only [fExp, flipSign, BitVec.extractLsb'_xor]
    rw [show BitVec.extractLsb' 23 8 (0x80000000 : F32) = 0#8 by decide, BitVec.xor_zero]
  · simp only [fFrac, flipSign, BitVec.extractLsb'_xor]
    rw [show BitVec.extractLsb' 0 23 (0x80000000 : F32) = 0#23 by decide, BitVec.xor_zero]

/-- Flipping the sign of a number. -/
theorem fVal_flipSign {a : F32} {s : Bool} {m : Nat} (h : fVal a = .fin s m) : fVal (flipSign a) = .fin (!s) m := by
  obtain ⟨he, rfl, rfl⟩ := fVal_fin h
  obtain ⟨h1, h2, h3⟩ := flipSign_fields a
  rw [fVal_finite (by rw [h2]; exact he), h1, h2, h3]

/-- `-a` of a NaN (00_scope.md R13). -/
theorem fneg_of_isNaN {a : F32} (h : isNaN a = true) : fneg a = canonNaN := if_pos h

/-- `-a` of a number or an infinity (00_scope.md R12). -/
theorem fneg_of_not_isNaN {a : F32} (h : isNaN a = false) : fneg a = flipSign a := by simp [fneg, h]

theorem isZero_flipSign {a : F32} (h : isZero a = true) : isZero (flipSign a) = true := by
  obtain ⟨s, hs⟩ := (isZero_iff_fVal a).1 h
  exact (isZero_iff_fVal _).2 ⟨!s, fVal_flipSign hs⟩

/-! ## Sums -/

theorem signedMag_natAbs (s : Bool) (m : Nat) : (signedMag s m).natAbs = m := by
  cases s <;> simp [signedMag]

theorem sumSign_signedMag {s t : Bool} {m : Nat} (h : m ≠ 0) : sumSign s t (signedMag s m) = s := by
  cases s <;> simp [sumSign, signedMag, h, Nat.pos_of_ne_zero h]

theorem sumSign_signedMag_right {s t : Bool} {m : Nat} (h : m ≠ 0) : sumSign t s (signedMag s m) = s := by
  cases s <;> simp [sumSign, signedMag, h, Nat.pos_of_ne_zero h]

theorem fadd_of_fin {a b : F32} {s t : Bool} {m n : Nat} (ha : fVal a = .fin s m) (hb : fVal b = .fin t n) :
    fadd a b = fRound (sumSign s t (signedMag s m + signedMag t n)) (signedMag s m + signedMag t n).natAbs 1 := by
  simp [fadd, ha, hb]

/-- Adding a zero on the right leaves a nonzero number as it is. -/
theorem fadd_isZero {a z : F32} (ha : isFinite a = true) (h0 : isZero a = false) (hz : isZero z = true) :
    fadd a z = a := by
  obtain ⟨s, m, h⟩ := (isFinite_iff_fVal a).1 ha
  obtain ⟨t, ht⟩ := (isZero_iff_fVal z).1 hz
  have hm : m ≠ 0 := by
    rintro rfl
    rw [(isZero_iff_fVal a).2 ⟨s, h⟩] at h0; cases h0
  have hz0 : signedMag t 0 = 0 := by cases t <;> rfl
  rw [fadd_of_fin h ht, hz0, Int.add_zero, sumSign_signedMag hm, signedMag_natAbs]
  simpa using fRound_exact h (d := 1) (by decide)

/-- Adding a nonzero number to a zero gives the number. -/
theorem isZero_fadd {a z : F32} (ha : isFinite a = true) (h0 : isZero a = false) (hz : isZero z = true) :
    fadd z a = a := by
  obtain ⟨s, m, h⟩ := (isFinite_iff_fVal a).1 ha
  obtain ⟨t, ht⟩ := (isZero_iff_fVal z).1 hz
  have hm : m ≠ 0 := by
    rintro rfl
    rw [(isZero_iff_fVal a).2 ⟨s, h⟩] at h0; cases h0
  have hz0 : signedMag t 0 = 0 := by cases t <;> rfl
  rw [fadd_of_fin ht h, hz0, Int.zero_add, sumSign_signedMag_right hm, signedMag_natAbs]
  simpa using fRound_exact h (d := 1) (by decide)

/-- The sum of two zeros is a zero. -/
theorem isZero_fadd_isZero {a b : F32} (ha : isZero a = true) (hb : isZero b = true) : isZero (fadd a b) = true := by
  obtain ⟨s, hs⟩ := (isZero_iff_fVal a).1 ha
  obtain ⟨t, ht⟩ := (isZero_iff_fVal b).1 hb
  rw [fadd_of_fin hs ht]
  cases s <;> cases t <;> decide

/-- Subtracting a zero leaves a nonzero number as it is. -/
theorem fsub_isZero {a z : F32} (ha : isFinite a = true) (h0 : isZero a = false) (hz : isZero z = true) :
    fsub a z = a := fadd_isZero ha h0 (isZero_flipSign hz)

theorem isZero_fsub_isZero {a b : F32} (ha : isZero a = true) (hb : isZero b = true) : isZero (fsub a b) = true :=
  isZero_fadd_isZero ha (isZero_flipSign hb)

/-- A number less itself is +0.0. -/
theorem fsub_self {a : F32} (ha : isFinite a = true) : fsub a a = f32Zero := by
  obtain ⟨s, m, h⟩ := (isFinite_iff_fVal a).1 ha
  have hsum : signedMag s m + signedMag (!s) m = 0 := by cases s <;> simp [signedMag]
  rw [fsub, fadd_of_fin h (fVal_flipSign h), hsum]
  cases s <;> simp [sumSign] <;> decide

/-! ## Products and quotients -/

theorem fVal_one : fVal f32One = .fin false (2 ^ 149) := by decide +kernel

/-- `a × 1.0` is `a`. -/
theorem fmul_one {a : F32} (ha : isFinite a = true) : fmul a f32One = a := by
  obtain ⟨s, m, h⟩ := (isFinite_iff_fVal a).1 ha
  simp only [fmul, h, fVal_one, Bool.xor_false]
  exact fRound_exact h (by positivity)

/-- `1.0 × a` is `a`. -/
theorem one_fmul {a : F32} (ha : isFinite a = true) : fmul f32One a = a := by
  obtain ⟨s, m, h⟩ := (isFinite_iff_fVal a).1 ha
  simp only [fmul, h, fVal_one, Bool.false_xor]
  rw [Nat.mul_comm]
  exact fRound_exact h (by positivity)

/-- `a ÷ 1.0` is `a`. -/
theorem fdiv_one {a : F32} (ha : isFinite a = true) : fdiv a f32One = a := by
  obtain ⟨s, m, h⟩ := (isFinite_iff_fVal a).1 ha
  simp only [fdiv, h, fVal_one, Bool.xor_false]
  rw [if_neg (by positivity)]
  exact fRound_exact h (by positivity)

/-- `a ÷ a` is 1.0 for a nonzero number. -/
theorem fdiv_self {a : F32} (ha : isFinite a = true) (h0 : isZero a = false) : fdiv a a = f32One := by
  obtain ⟨s, m, h⟩ := (isFinite_iff_fVal a).1 ha
  have hm : m ≠ 0 := by
    rintro rfl
    rw [(isZero_iff_fVal a).2 ⟨s, h⟩] at h0; cases h0
  simp only [fdiv, h, if_neg hm, Bool.xor_self]
  rw [Nat.mul_comm]
  exact fRound_exact fVal_one (by omega)

/-- A number times a zero is a zero. -/
theorem isZero_fmul {a z : F32} (ha : isFinite a = true) (hz : isZero z = true) : isZero (fmul a z) = true := by
  obtain ⟨s, m, h⟩ := (isFinite_iff_fVal a).1 ha
  obtain ⟨t, ht⟩ := (isZero_iff_fVal z).1 hz
  simp [fmul, h, ht]

theorem isZero_fmul_left {a z : F32} (ha : isFinite a = true) (hz : isZero z = true) : isZero (fmul z a) = true := by
  obtain ⟨s, m, h⟩ := (isFinite_iff_fVal a).1 ha
  obtain ⟨t, ht⟩ := (isZero_iff_fVal z).1 hz
  simp [fmul, h, ht]

/-- A zero divided by a nonzero number is a zero. -/
theorem isZero_fdiv {a z : F32} (ha : isFinite a = true) (h0 : isZero a = false) (hz : isZero z = true) :
    isZero (fdiv z a) = true := by
  obtain ⟨s, m, h⟩ := (isFinite_iff_fVal a).1 ha
  obtain ⟨t, ht⟩ := (isZero_iff_fVal z).1 hz
  have hm : m ≠ 0 := by
    rintro rfl
    rw [(isZero_iff_fVal a).2 ⟨s, h⟩] at h0; cases h0
  simp [fdiv, h, ht, hm]

/-! ## The integer square root -/

theorem isqrtFrom_spec (n k r : Nat) (h1 : r * r ≤ n) (h2 : n < (r + 2 ^ k) * (r + 2 ^ k)) :
    isqrtFrom n k r * isqrtFrom n k r ≤ n ∧ n < (isqrtFrom n k r + 1) * (isqrtFrom n k r + 1) := by
  induction k generalizing r with
  | zero => exact ⟨h1, by simpa [isqrtFrom] using h2⟩
  | succ k ih =>
    unfold isqrtFrom
    split
    next h => exact ih (r + 2 ^ k) h (by rw [pow_succ] at h2; convert h2 using 2 <;> ring)
    next h => exact ih r h1 (by omega)

/-- `isqrt` is the integer square root of every radicand the square root meets. -/
theorem isqrt_spec {n : Nat} (h : n < 2 ^ 428) : isqrt n * isqrt n ≤ n ∧ n < (isqrt n + 1) * (isqrt n + 1) := by
  refine isqrtFrom_spec n 214 0 (Nat.zero_le _) ?_
  rwa [Nat.zero_add, ← pow_add, show 214 + 214 = 428 from rfl]

end Sys2Proof.Machine
end

