-- ==== Sys2Proof/Laws/PerInstr.lean ====
section
/-! SUPPORT. Families of statements made per command, one lemma per constructor of Instr. -/

namespace Sys2Proof.Laws

/-- The command's word carries its OPC in [31:24] and zero in the reserved bits [11:0] (30_encoding.md R70, R74), for
every value of its operands. -/
def CommandWordForm.Statement (i : Instr) : Prop :=
  fieldOpc (encode i) ≤ 0x0A ∧ (encode i).extractLsb' 0 12 = 0

/-- The low half of a concatenation. -/
theorem extractLsb'_append_low {m n : Nat} (x : BitVec m) (y : BitVec n) : (x ++ y).extractLsb' 0 n = y := by
  ext k hk
  simp [BitVec.getLsbD_append, hk]

/-- The OPC field of an assembled word is the operation code. -/
theorem fieldOpc_assemble (opc : BitVec 8) (b t n : Nat) : fieldOpc (assemble opc b t n) = opc.toNat := by
  unfold fieldOpc assemble
  refine congrArg BitVec.toNat ?_
  ext k hk
  simp only [BitVec.getElem_extractLsb', BitVec.getLsbD_append]
  rw [if_neg (by omega), if_neg (by omega), if_neg (by omega), if_neg (by omega),
    show 24 + k - 12 - 4 - 4 - 4 = k by omega, BitVec.getLsbD_eq_getElem hk]

/-- An assembled word has the form, whatever its operands. -/
theorem assemble_form (opc : BitVec 8) (b t n : Nat) (h : opc.toNat ≤ 0x0A) :
    fieldOpc (assemble opc b t n) ≤ 0x0A ∧ (assemble opc b t n).extractLsb' 0 12 = 0 :=
  ⟨by rw [fieldOpc_assemble]; exact h, extractLsb'_append_low _ _⟩

theorem CommandWordForm.nop : CommandWordForm.Statement .nop := assemble_form _ _ _ _ (by decide)

theorem CommandWordForm.initBand (b t n : Nat) : CommandWordForm.Statement (.initBand b t n) :=
  assemble_form _ _ _ _ (by decide)

theorem CommandWordForm.updateBand (b : Nat) : CommandWordForm.Statement (.updateBand b) :=
  assemble_form _ _ _ _ (by decide)

theorem CommandWordForm.setType (b t : Nat) : CommandWordForm.Statement (.setType b t) :=
  assemble_form _ _ _ _ (by decide)

theorem CommandWordForm.setInterleave (b n : Nat) : CommandWordForm.Statement (.setInterleave b n) :=
  assemble_form _ _ _ _ (by decide)

theorem CommandWordForm.processBand (b : Nat) : CommandWordForm.Statement (.processBand b) :=
  assemble_form _ _ _ _ (by decide)

theorem CommandWordForm.incrementIndex (b : Nat) : CommandWordForm.Statement (.incrementIndex b) :=
  assemble_form _ _ _ _ (by decide)

theorem CommandWordForm.resetHistory : CommandWordForm.Statement .resetHistory := assemble_form _ _ _ _ (by decide)

theorem CommandWordForm.tick : CommandWordForm.Statement .tick := assemble_form _ _ _ _ (by decide)

theorem CommandWordForm.map : CommandWordForm.Statement .map := assemble_form _ _ _ _ (by decide)

theorem CommandWordForm.solve (t : Nat) : CommandWordForm.Statement (.solve t) := assemble_form _ _ _ _ (by decide)

end Sys2Proof.Laws
end

