-- ==== Sys2Proof/Laws/Response.lean ====
section
/-! SUPPORT. The frequency response of a coefficient set in exact arithmetic (spec 40_coefficient_solver.md R107): the
rows of R95 to R99 over a field, and the transfer function at DC, at Nyquist and at omega. Rounding plays no part here:
nothing in this file is about a state or a step. -/

namespace Sys2Proof.Laws

/-- Six coefficients in exact arithmetic. -/
structure ExactSet (K : Type) where
  b0 : K
  b1 : K
  b2 : K
  a0 : K
  a1 : K
  a2 : K

variable {K : Type} [Field K]

/-- LowPass (R95). -/
def exactLowPass (c al : K) : ExactSet K := ⟨(1 - c) / 2, 1 - c, (1 - c) / 2, 1 + al, -2 * c, 1 - al⟩

/-- HighPass (R96). -/
def exactHighPass (c al : K) : ExactSet K := ⟨(1 + c) / 2, -(1 + c), (1 + c) / 2, 1 + al, -2 * c, 1 - al⟩

/-- BandPass in the form PEAK_0DB (R97). -/
def exactBandPass (c al : K) : ExactSet K := ⟨al, 0, -al, 1 + al, -2 * c, 1 - al⟩

/-- Notch (R98). -/
def exactNotch (c al : K) : ExactSet K := ⟨1, -2 * c, 1, 1 + al, -2 * c, 1 - al⟩

/-- Peak (R99). -/
def exactPeak (c al A : K) : ExactSet K := ⟨1 + al * A, -2 * c, 1 - al * A, 1 + al / A, -2 * c, 1 - al / A⟩

/-- The DC gain `H(1)`. -/
def ExactSet.dc (r : ExactSet K) : K := (r.b0 + r.b1 + r.b2) / (r.a0 + r.a1 + r.a2)

/-- The Nyquist gain `H(-1)`. -/
def ExactSet.nyquist (r : ExactSet K) : K := (r.b0 - r.b1 + r.b2) / (r.a0 - r.a1 + r.a2)

/-- The numerator of H at `z = c + j·s`, times `z`: real and imaginary part, with `z⁻¹ = c - j·s` on the unit circle. -/
def ExactSet.num (r : ExactSet K) (c s : K) : K × K := ((r.b0 + r.b2) * c + r.b1, (r.b0 - r.b2) * s)

/-- The denominator of H at `z = c + j·s`, times `z`. -/
def ExactSet.den (r : ExactSet K) (c s : K) : K × K := ((r.a0 + r.a2) * c + r.a1, (r.a0 - r.a2) * s)

theorem lowPass_dc {c al : K} (h2 : (2 : K) ≠ 0) (h : 1 - c ≠ 0) : (exactLowPass c al).dc = 1 := by
  have hd : (1 + al + -2 * c + (1 - al) : K) = 2 * (1 - c) := by ring
  have hn : ((1 - c) / 2 + (1 - c) + (1 - c) / 2 : K) = 2 * (1 - c) := by field_simp; ring
  simp only [ExactSet.dc, exactLowPass]
  rw [hd, hn, div_self (mul_ne_zero h2 h)]

theorem highPass_dc {c al : K} (h2 : (2 : K) ≠ 0) : (exactHighPass c al).dc = 0 := by
  have hn : ((1 + c) / 2 + -(1 + c) + (1 + c) / 2 : K) = 0 := by field_simp; ring
  simp only [ExactSet.dc, exactHighPass]
  rw [hn, zero_div]

theorem highPass_nyquist {c al : K} (h2 : (2 : K) ≠ 0) (h : 1 + c ≠ 0) : (exactHighPass c al).nyquist = 1 := by
  have hd : (1 + al - -2 * c + (1 - al) : K) = 2 * (1 + c) := by ring
  have hn : ((1 + c) / 2 - -(1 + c) + (1 + c) / 2 : K) = 2 * (1 + c) := by field_simp; ring
  simp only [ExactSet.nyquist, exactHighPass]
  rw [hd, hn, div_self (mul_ne_zero h2 h)]

theorem bandPass_dc_nyquist (c al : K) : (exactBandPass c al).dc = 0 ∧ (exactBandPass c al).nyquist = 0 := by
  constructor <;> simp [ExactSet.dc, ExactSet.nyquist, exactBandPass]

/-- H = 1 at omega, so its magnitude is 1 there. -/
theorem bandPass_centre (c s al : K) : (exactBandPass c al).num c s = (exactBandPass c al).den c s := by
  simp only [ExactSet.num, ExactSet.den, exactBandPass, Prod.mk.injEq]
  constructor <;> ring

theorem notch_dc {c al : K} (h2 : (2 : K) ≠ 0) (h : 1 - c ≠ 0) : (exactNotch c al).dc = 1 := by
  have hd : (1 + al + -2 * c + (1 - al) : K) = 2 * (1 - c) := by ring
  have hn : (1 + -2 * c + 1 : K) = 2 * (1 - c) := by ring
  simp only [ExactSet.dc, exactNotch]
  rw [hd, hn, div_self (mul_ne_zero h2 h)]

theorem notch_nyquist {c al : K} (h2 : (2 : K) ≠ 0) (h : 1 + c ≠ 0) : (exactNotch c al).nyquist = 1 := by
  have hd : (1 + al - -2 * c + (1 - al) : K) = 2 * (1 + c) := by ring
  have hn : (1 - -2 * c + 1 : K) = 2 * (1 + c) := by ring
  simp only [ExactSet.nyquist, exactNotch]
  rw [hd, hn, div_self (mul_ne_zero h2 h)]

/-- H = 0 at omega. -/
theorem notch_centre (c s al : K) : (exactNotch c al).num c s = (0, 0) := by
  simp only [ExactSet.num, exactNotch, Prod.mk.injEq]
  constructor <;> ring

/-- H = A² at omega. -/
theorem peak_centre {c s al A : K} (hA : A ≠ 0) :
    (exactPeak c al A).num c s = (A ^ 2 * ((exactPeak c al A).den c s).1, A ^ 2 * ((exactPeak c al A).den c s).2) := by
  simp only [ExactSet.num, ExactSet.den, exactPeak, Prod.mk.injEq]
  constructor
  · ring
  · field_simp; ring

end Sys2Proof.Laws
end

