-- ==== Sys2Proof/Tests/Slice0.lean ====
section
/-! SUPPORT. The author's own tests: words decoded by hand, ill-formed commands refused, one step of each command on the
values of spec 95_test_vectors.md or of a rule's example, and, for each statement that has hypotheses, a state and
operands that meet them (`witness_<statement>`). -/

namespace Sys2Proof.Tests

open Sys2Proof.Machine

/-! ## Decoding and well-formedness -/

/-- Words written out field by field: OPC, BAND, TYPE, DEPTH, RSV (30_encoding.md R70, R72). -/
theorem test_decode_words :
    decode (0x00#8 ++ 0#4 ++ 0#4 ++ 0#4 ++ 0#12) = .ok .nop ∧
    decode (0x01#8 ++ 4#4 ++ 6#4 ++ 10#4 ++ 0#12) = .ok (.initBand 4 6 10) ∧
    decode (0x02#8 ++ 3#4 ++ 0#4 ++ 0#4 ++ 0#12) = .ok (.updateBand 3) ∧
    decode (0x03#8 ++ 1#4 ++ 6#4 ++ 0#4 ++ 0#12) = .ok (.setType 1 6) ∧
    decode (0x04#8 ++ 15#4 ++ 0#4 ++ 11#4 ++ 0#12) = .ok (.setInterleave 15 11) ∧
    decode (0x05#8 ++ 4#4 ++ 0#4 ++ 0#4 ++ 0#12) = .ok (.processBand 4) ∧
    decode (0x06#8 ++ 8#4 ++ 0#4 ++ 0#4 ++ 0#12) = .ok (.incrementIndex 8) ∧
    decode (0x07#8 ++ 0#4 ++ 0#4 ++ 0#4 ++ 0#12) = .ok .resetHistory ∧
    decode (0x08#8 ++ 0#4 ++ 0#4 ++ 0#4 ++ 0#12) = .ok .tick ∧
    decode (0x09#8 ++ 0#4 ++ 0#4 ++ 0#4 ++ 0#12) = .ok .map ∧
    decode (0x0A#8 ++ 0#4 ++ 15#4 ++ 0#4 ++ 0#12) = .ok (.solve 15) := by decide

/-- Reserved opcodes, reserved bits and unused fields are rejected (R73, R74; 60_exceptions.md R184's second example). -/
theorem test_decode_rejects :
    decode 0x0B000000 = .error (.reservedOpcode 0x0B) ∧ decode 0xFF000000 = .error (.reservedOpcode 0xFF) ∧
    decode 0x04F0B001 = .error (.reservedBits 0x04F0B001) ∧ decode 0x04010000 = .error (.reservedBits 0x04010000) ∧
    decode 0x00000001 = .error (.reservedBits 1) := by decide

/-- The host's numbering of a row's bits. -/
theorem test_decodeTableWord : decodeTableWord 32 0x01243000 = some (.initBand 2 4 3) := by decide

/-- Every check of WellFormed refuses an operand that does not fit its field, and takes the greatest that does. -/
theorem test_wellFormed :
    ¬ (Instr.initBand 16 0 0).WellFormed ∧ ¬ (Instr.initBand 0 16 0).WellFormed ∧ ¬ (Instr.initBand 0 0 16).WellFormed ∧
    ¬ (Instr.updateBand 16).WellFormed ∧ ¬ (Instr.setType 16 0).WellFormed ∧ ¬ (Instr.setType 0 16).WellFormed ∧
    ¬ (Instr.setInterleave 16 0).WellFormed ∧ ¬ (Instr.setInterleave 0 16).WellFormed ∧
    ¬ (Instr.processBand 16).WellFormed ∧ ¬ (Instr.incrementIndex 16).WellFormed ∧ ¬ (Instr.solve 16).WellFormed ∧
    (Instr.initBand 15 15 15).WellFormed := by decide

/-! ## Small states -/

/-- A field of the next state, where there is one. -/
def after {α : Type} (o : Host.Outcome State Fault Refusal) (f : State → α) : Option α :=
  match o with
  | .next t => some (f t)
  | .fault _ => none
  | .refused _ => none

/-- `sin32`, `cos32` and `exp10_32` of the reference configuration (95_test_vectors.md) at the points the tests use:
omega of 1000 Hz at 44100 Hz, and 10^0.15; 1.0 elsewhere, which is P1. -/
def refCfg : Params :=
  { ampLaw := .cookbook, bpfForm := .peak0dB, incPolicy := .afterEach, dryTap := .postInputGain
    sin32 := fun w => if w = 0x3E11E531 then 0x3E1166F5 else 0
    cos32 := fun w => if w = 0x3E11E531 then 0x3F7D67F4 else 0x3F800000
    exp10 := fun x => if x = 0x3E19999A then 0x3FB4CE08 else 0x3F800000 }

/-- INTERLEAVED mode, OSF 2, every band with DEPTH 3 and ACTIVE 2. -/
def bank : State :=
  { State.reset with mode := .interleaved, osf := 2,
                     bands := Vector.replicate 5 { Band.reset with depth := 3, active := 2 } }

/-- BIQUAD mode, OSF 2, the staging values of 40_coefficient_solver.md R104 and R105 and of 41_biquad_core.md R122, at
the gain `g`. -/
def staged (g : F32) : State :=
  { State.reset with
    osf := 2
    sampleRate := 0x472C4400
    solver := { Solver.reset with fs := 0x472C4400, freq := 0x447A0000, q := 0x3F34FDF4, gain := g,
                                  omega := 0x3E11E531, alpha := 0x3DCDA929 }
    bands := Vector.replicate 5 { Band.reset with freq := 0x447A0000, gainDb := g, q := 0x3F34FDF4, ftype := .peak } }

/-- Reset, but every band clean: pass-through coefficients that need no update, wet path only, the impulse at IN_L. -/
def clean : State :=
  { State.reset with wetMix := 0x3F800000, inL := 0x3F800000,
                     bands := Vector.replicate 5 { Band.reset with dirty := false } }

/-! ## One step of each command -/

theorem test_nop : after (exec .nop bank) id = some bank := by decide +kernel

/-- 41_biquad_core.md R122's example. -/
theorem test_initBand :
    ((runInitBand refCfg 0 .peak 1 (staged 0)).band 0).statWord = 0x00000014 ∧
    (((runInitBand refCfg 0 .peak 1 (staged 0)).band 0).slot 9).coefs =
      ⟨0x3F8CDA93, 0xBFFD67F4, 0x3F664ADB, 0x3F8CDA93, 0xBFFD67F4, 0x3F664ADB⟩ := by decide +kernel

/-- 41_biquad_core.md R123's example: the Peak +6 dB set, in a slot that is not active, and ST_GAIN. -/
theorem test_updateBand :
    (((lazyUpdate refCfg 2 (staged 0x40C00000)).band 2).slot 7).coefs =
      ⟨0x3F92280F, 0xBFFD67F4, 0x3F5BAFE3, 0x3F89198C, 0xBFFD67F4, 0x3F6DCCE8⟩ ∧
    ((lazyUpdate refCfg 2 (staged 0x40C00000)).band 2).stGain = 0x40C00000 := by decide +kernel

/-- 42_interleaved_bank.md R142's example, from DEPTH 3 and ACTIVE 2. -/
theorem test_setType : after (exec (.setType 1 6) bank) (fun t => (t.band 1).statWord) = some 0x00001236 := by
  decide +kernel

/-- 42_interleaved_bank.md R141's example: DEPTH 3, ACTIVE 2, then DEPTH 2 puts the cursor to 0. -/
theorem test_setInterleave :
    after (exec (.setInterleave 0 2) bank) (fun t => (t.band 0).statWord) = some 0x00001020 := by decide +kernel

/-- 60_exceptions.md R184's first example: BAD_BAND before MODE_ERR and BAD_DEPTH. -/
theorem test_setInterleave_priority :
    after (step (State.reset.offerCommand 0x04F0B000)) (fun t => (t.statusWord, t.errInfo, t.pslverr)) =
      some (0x00000202, 0x04F0B000, true) := by decide +kernel

/-- 41_biquad_core.md R124's example: 1.0 through pass-through coefficients, and the history it leaves. -/
theorem test_processBand :
    after (exec (.processBand 0) clean) (fun t => (t.outL, t.outR, ((t.band 0).slot 0).left, ((t.band 0).slot 0).right)) =
      some (0x3F800000, 0, ⟨0x3F800000, 0, 0x3F800000, 0⟩, ⟨0, 0, 0, 0⟩) := by decide +kernel

/-- 42_interleaved_bank.md R143's example: DEPTH 3, ACTIVE 2 wraps to 0. -/
theorem test_incrementIndex : after (exec (.incrementIndex 0) bank) (fun t => (t.band 0).active) = some 0 := by
  decide +kernel

/-- 41_biquad_core.md R125's example, after the step of R124. -/
theorem test_resetHistory :
    after (exec .resetHistory (runProcessBand 0 clean)) (fun t => (((t.band 0).slot 0).left, t.outL)) =
      some (⟨0, 0, 0, 0⟩, 0x3F800000) := by decide +kernel

/-- 43_band_chain.md R169's first TICK: the impulse comes out, and reaches the last band's history. -/
theorem test_tick :
    (runTick refCfg (staged 0)).sticky = 0 ∧ (runTick refCfg clean).outL = 0x3F800000 ∧ (runTick refCfg clean).outR = 0 ∧
    (((runTick refCfg clean).band 4).slot 0).left.x1 = 0x3F800000 := by decide +kernel

/-- 40_coefficient_solver.md R104's example. -/
theorem test_map :
    (runMap refCfg (staged 0)).solver.omega = 0x3E11E531 ∧ (runMap refCfg (staged 0)).solver.alpha = 0x3DCDA929 := by
  decide +kernel

/-- 40_coefficient_solver.md R105's example. -/
theorem test_solve :
    (runSolve refCfg .peak (staged 0x40C00000)).solver.amp = 0x3FB4CE08 ∧
    (runSolve refCfg .peak (staged 0x40C00000)).solver.coefs =
      ⟨0x3F92280F, 0xBFFD67F4, 0x3F5BAFE3, 0x3F89198C, 0xBFFD67F4, 0x3F6DCCE8⟩ := by decide +kernel

/-- A row's word runs as the first command after reset. -/
theorem test_withFetchWord :
    after (step (State.reset.withFetchWord 32 0x04F0B000)) (fun t => t.lastErr) = some 2 := by decide +kernel

/-- A misaligned read is refused and answers 0 (20_memory.md R57). -/
theorem test_busRead : after (step { bank with pending := [.read 0x001] }) (fun t => (t.prdata, t.statusWord, t.errInfo)) =
    some (some 0, 0x00000620, 1) := by decide +kernel

/-- 00_scope.md R12, R13: 1.5 + 0.1 is 1.6, 0 × infinity is the canonical NaN, the least subnormal and three of them
halved round to even, the root of 2.0, -1.0, and `-a` of a NaN of another pattern. -/
theorem test_arithmetic :
    fadd 0x3FC00000 0x3DCCCCCD = 0x3FCCCCCD ∧ fmul 0 0x7F800000 = 0x7FC00000 ∧ fdiv 0x00000001 0x40000000 = 0 ∧
    fdiv 0x00000003 0x40000000 = 2 ∧ fsqrt 0x40000000 = 0x3FB504F3 ∧ fneg 0x3F800000 = 0xBF800000 ∧
    fneg 0xFFC12345 = 0x7FC00000 := by decide +kernel

/-! ## Witnesses -/

/-- The host's next input on a state. -/
def offered (s : State) (t : HostInput) : State := { s with pending := [t] }

/-- A next state and one of its fields, from `after`. -/
theorem exists_next {α : Type} {o : Host.Outcome State Fault Refusal} {f : State → α} {x : α}
    (h : after o f = some x) : ∃ t, o = .next t ∧ f t = x := by
  cases o with
  | next t => exact ⟨t, rfl, Option.some.inj h⟩
  | fault r => cases h
  | refused r => cases h

theorem exists_step {o : Host.Outcome State Fault Refusal} (h : after o (fun _ => ()) = some ()) : ∃ t, o = .next t :=
  let ⟨t, ht, _⟩ := exists_next h
  ⟨t, ht⟩

theorem all_false {l : List F32} {f : F32 → Bool} (h : l.all (fun v => !f v) = true) : ∀ v ∈ l, f v = false :=
  fun v hv => by simpa using List.all_eq_true.1 h v hv

theorem bank_inv : bank.Inv where
  ranges := by
    have h : ∀ b, 1 ≤ (bank.band b).depth.toNat ∧ (bank.band b).depth.toNat ≤ 10 ∧
      (bank.band b).active.val < (bank.band b).depth.toNat ∧ typeCode (bank.band b).ftype ≤ 6 := by decide +kernel
    exact h
  single := by intro h; cases h
  osf := by decide
  uniform := by
    have h : ∀ b, ∀ j k : Fin 10, ((bank.band b).slot j).coefs = ((bank.band b).slot k).coefs := by decide +kernel
    exact h

theorem staged_inv : (staged 0).Inv where
  ranges := by
    have h : ∀ b, 1 ≤ ((staged 0).band b).depth.toNat ∧ ((staged 0).band b).depth.toNat ≤ 10 ∧
      ((staged 0).band b).active.val < ((staged 0).band b).depth.toNat ∧ typeCode ((staged 0).band b).ftype ≤ 6 := by
      decide +kernel
    exact h
  single := by
    intro _
    have h : ∀ b, ((staged 0).band b).depth = 1 ∧ ((staged 0).band b).active = 0 := by decide +kernel
    exact h
  osf := by decide
  uniform := by
    have h : ∀ b, ∀ j k : Fin 10, (((staged 0).band b).slot j).coefs = (((staged 0).band b).slot k).coefs := by
      decide +kernel
    exact h

theorem refCfg_P1 : refCfg.P1 := ⟨by decide, by decide⟩

theorem witness_DecodeOfEncode : (Instr.initBand 15 0 15).WellFormed ∧ Instr.nop.WellFormed := by decide

theorem witness_EncodeOfDecode : decode 0x01F6F000 = .ok (.initBand 15 6 15) := by decide

/-- One word that fits a row, one that fits none and is offered to CMD. -/
theorem witness_WordFitsOneRowOrIsBadCmd :
    (∃ r ∈ opRows, r.fits 0x0A060000 = true) ∧ (∀ r ∈ opRows, r.fits 0x0A060001 = false) ∧
    (offered bank (.write 0x00C 0x0A060001 0b1111)).pending = [.write 0x00C 0x0A060001 0b1111] :=
  ⟨⟨⟨0x0A000000, 0xFFF0FFFF, fun w => .solve (fieldType w)⟩, by simp [opRows], by decide⟩, by decide, rfl⟩

/-- The least and the greatest reserved opcode. -/
theorem witness_ReservedOpcodeIsBadCmd :
    0x0B ≤ ((0x0B000000 : Word).extractLsb' 24 8).toNat ∧ 0x0B ≤ ((0xFFFFFFFF : Word).extractLsb' 24 8).toNat ∧
    (offered bank (.write 0x00C 0x0B000000 0b1111)).pending = [.write 0x00C 0x0B000000 0b1111] := by decide

theorem witness_RegisterAddressesDecode : regAt 0x1774 = some (.slot 4 9 .yr2) := by decide

/-- A mapped read, the last slot register; an unmapped one, the word after it. -/
theorem witness_ReadAnswersTheRegister :
    (offered bank (.read 0x1774)).pending = [.read 0x1774] ∧ regAt 0x1774 = some (.slot 4 9 .yr2) ∧
    (offered bank (.read 0x1778)).pending = [.read 0x1778] ∧ regAt 0x1778 = none := by decide

/-- An unmapped, a misaligned and a partly strobed access. -/
theorem witness_RefusedAccessRecordsBusErr :
    (offered bank (.read 0x038)).pending = [.read 0x038] ∧ (¬ ∃ r : Reg, r.addr = 0x038) ∧
    (offered bank (.read 0x1FFF)).pending = [.read 0x1FFF] ∧ (0x1FFF : Addr).toNat % 4 ≠ 0 ∧
    (offered bank (.write 0x000 5 0b0111)).pending = [.write 0x000 5 0b0111] ∧ (0b0111 : BitVec 4) ≠ 0b1111 := by
  refine ⟨rfl, ?_, rfl, by decide, rfl, by decide⟩
  rintro ⟨r, h⟩
  cases r with
  | global g => revert h; cases g <;> decide
  | band b r => revert h; revert b; cases r <;> decide
  | slot b k r => revert h; revert b k; cases r <;> decide

theorem witness_PlainWriteStoresTheData :
    (Reg.band 4 .q).plainRW = true ∧
    (offered bank (.write (Reg.band 4 .q).addr 0x7F800001 0b1111)).pending =
      [.write (Reg.band 4 .q).addr 0x7F800001 0b1111] := by decide

theorem witness_ReadOnlyWriteIsIgnored :
    (Reg.slot 0 0 .b0).readOnly = true ∧ (Reg.global .errInfo).readOnly = true ∧
    (offered bank (.write (Reg.slot 0 0 .b0).addr 5 0b1111)).pending = [.write (Reg.slot 0 0 .b0).addr 5 0b1111] := by
  decide

theorem witness_StatusWriteClearsOnes :
    (offered bank (.write 0x004 0xFFFFFF7F 0b1111)).pending = [.write 0x004 0xFFFFFF7F 0b1111] := by decide

/-- OSF 3; OSF 2 with another mode; OSF 2 with the same mode. -/
theorem witness_CtrlWriteActsByItsFields :
    (6 : Word).extractLsb' 1 2 = 3 ∧ (offered bank (.write 0x000 6 0b1111)).pending = [.write 0x000 6 0b1111] ∧
    (4 : Word).extractLsb' 1 2 ≠ 3 ∧ (offered bank (.write 0x000 4 0b1111)).pending = [.write 0x000 4 0b1111] ∧
    after (step (offered bank (.write 0x000 4 0b1111))) (fun t => (t.mode == .biquad, t.osf)) = some (true, 2) ∧
    (5 : Word).extractLsb' 1 2 ≠ 3 ∧ (offered bank (.write 0x000 5 0b1111)).pending = [.write 0x000 5 0b1111] ∧
    after (step (offered bank (.write 0x000 5 0b1111))) (fun t => (t.mode == .interleaved, t.osf)) = some (true, 2) := by
  decide +kernel

theorem witness_ResetStepResetsEveryRegister : (offered bank .reset).pending = [.reset] := rfl

theorem witness_IdleStepChangesNothing : bank.pending = [] := rfl

theorem witness_StepRunsTheDecodedCommand :
    (offered bank (.write 0x00C 0x05400000 0b1111)).pending = [.write 0x00C 0x05400000 0b1111] ∧
    decode 0x05400000 = .ok (.processBand 4) ∧ (Instr.processBand 4).WellFormed := by decide

/-- An INTERLEAVED state with the cursors at their last place, and its step. -/
theorem witness_StepKeepsTheInvariants :
    (offered bank (.write 0x00C 0x06000000 0b1111)).Inv ∧
    ∃ t, step (offered bank (.write 0x00C 0x06000000 0b1111)) = .next t :=
  ⟨⟨bank_inv.ranges, bank_inv.single, bank_inv.osf, bank_inv.uniform⟩, exists_step (by decide +kernel)⟩

theorem witness_BandAboveFourIsBadBand : 4 < 5 ∧
    Instr.initBand 5 7 0 ∈ [Instr.initBand 5 7 0, .updateBand 5, .setType 5 7, .setInterleave 5 0, .processBand 5,
      .incrementIndex 5] := by decide

theorem witness_BankCommandInBiquadIsModeErr : State.reset.mode = .biquad ∧
    Instr.setType (4 : Fin 5) 7 ∈ [Instr.setType (4 : Fin 5) 7, .setInterleave (4 : Fin 5) 0,
      .incrementIndex (4 : Fin 5)] := by decide

theorem witness_TypeAboveSixIsBadType : 6 < 7 ∧ Instr.solve 7 ∈ [Instr.initBand (0 : Fin 5) 7 0, .solve 7] ∧
    bank.mode = .interleaved := by decide

theorem witness_DepthOutOfRangeIsBadDepth : bank.mode = .interleaved ∧ (0 = 0 ∨ 10 < 0) ∧ (11 = 0 ∨ 10 < 11) := by decide

theorem witness_RefusedCommandChangesOnlyTheRecord :
    bank.pslverr = false ∧ ∃ t, exec (.updateBand 5) bank = .next t ∧ t.pslverr = true :=
  ⟨rfl, exists_next (by decide +kernel)⟩

theorem witness_CommandsClearNoStickyBit :
    bank.pslverr = false ∧ ∃ t, exec (.incrementIndex 0) bank = .next t ∧ t.pslverr = false :=
  ⟨rfl, exists_next (by decide +kernel)⟩

theorem witness_CommandsNeverWriteStaging : ∃ t, exec .tick bank = .next t :=
  exists_step (by decide +kernel)

/-- RESET_HISTORY is none of the commands that the statement excepts. -/
theorem witness_ResultsWrittenByTheirCommandsOnly :
    (∃ t, exec .resetHistory bank = .next t) ∧ (∀ b, Instr.resetHistory ≠ .processBand b) ∧
    Instr.resetHistory ≠ .tick ∧ Instr.resetHistory ≠ .map ∧ (∀ ft, Instr.resetHistory ≠ .solve ft) ∧
    (∀ b ft n, Instr.resetHistory ≠ .initBand b ft n) ∧ ∀ b, Instr.resetHistory ≠ .updateBand b :=
  ⟨exists_step (by decide +kernel), nofun, nofun, nofun, nofun, nofun, nofun⟩

theorem witness_StepKeepsTheRefusalRecord :
    (offered { bank with lastErr := 7 } (.read 0x003)).lastErr.toNat ≤ 7 ∧
    ((offered { bank with lastErr := 7 } (.read 0x003)).lastErr = 0 →
      (offered { bank with lastErr := 7 } (.read 0x003)).errInfo = 0) ∧
    ∃ t, step (offered { bank with lastErr := 7 } (.read 0x003)) = .next t :=
  ⟨by decide, by decide, exists_step (by decide +kernel)⟩

theorem witness_NopChangesNothing :
    (0x00800000 : Word).extractLsb' 24 8 = 0 ∧ (0x00800000 : Word) ≠ 0 ∧
    (offered bank (.write 0x00C 0x00800000 0b1111)).pending = [.write 0x00C 0x00800000 0b1111] := by decide

theorem witness_ZeroGainIsFactorOne : refCfg.P1 ∧ isZero 0x00000000 = true ∧ isZero 0x80000000 = true :=
  ⟨refCfg_P1, by decide, by decide⟩

theorem witness_PeakIsIdentityAtZeroGain : refCfg.P1 ∧ isZero 0x80000000 = true := ⟨refCfg_P1, by decide⟩

theorem witness_ShelvesAreIdentityAtZeroGain :
    (FilterType.highShelf = .lowShelf ∨ FilterType.highShelf = .highShelf) ∧ refCfg.P1 ∧ isZero 0x00000000 = true ∧
    isZero (refCfg.cos32 0x3E11E531) = false := ⟨by decide, refCfg_P1, by decide, by decide⟩

/-- DEPTH 1 and 10 in INTERLEAVED mode; in BIQUAD mode no depth is asked for. -/
theorem witness_InitBandConstructsTheBand :
    (bank.mode = .interleaved → 1 ≤ 1 ∧ 1 ≤ 10) ∧ (bank.mode = .interleaved → 1 ≤ 10 ∧ 10 ≤ 10) ∧
    ((staged 0).mode = .interleaved → 1 ≤ 0 ∧ 0 ≤ 10) := by decide

/-- A dirty band; a clean one whose sample rate is a NaN. -/
theorem witness_UpdateBandRecomputes :
    (bank.band 4).dirty = true ∧
    feq { clean with sampleRate := 0x7FC00000 }.sampleRate ({ clean with sampleRate := 0x7FC00000 }.band 0).stFs = false := by
  decide +kernel

/-- The two zeros count as equal. -/
theorem witness_UpdateBandIsLazy :
    let s := { clean with sampleRate := 0x80000000 }
    (s.band 0).dirty = false ∧ feq s.sampleRate (s.band 0).stFs = true ∧ feq (s.band 0).freq (s.band 0).stFreq = true ∧
    feq (s.band 0).gainDb (s.band 0).stGain = true ∧ feq (s.band 0).q (s.band 0).stQ = true := by decide +kernel

theorem witness_UpdateAfterInitIsLazy :
    (staged 0).pslverr = false ∧
    (∀ v ∈ [(staged 0).sampleRate, ((staged 0).band 4).freq, ((staged 0).band 4).gainDb, ((staged 0).band 4).q],
      isNaN v = false) ∧
    ∃ t, exec (.initBand (4 : Fin 5) 6 0) (staged 0) = .next t ∧ t.pslverr = false :=
  ⟨rfl, all_false (by decide +kernel), exists_next (by decide +kernel)⟩

theorem witness_SilenceStaysSilence :
    Coefs.reset.Sound ∧ (⟨0x80000000, 0, 0x80000000, 0⟩ : Lane).Silent ∧
    ∀ x ∈ [(0x80000000 : F32), 0x00000000], isZero x = true :=
  ⟨by unfold Coefs.Sound; decide, by unfold Lane.Silent; decide, List.all_eq_true.1 (by decide)⟩

theorem witness_ImpulseTaps :
    let c : Coefs := ⟨0x3F8CDA93, 0xBFFD67F4, 0x3F664ADB, 0x3F8CDA93, 0xBFFD67F4, 0x3F664ADB⟩
    (∀ v ∈ [c.b0, c.b1, c.b2, c.a0, c.a1, c.a2], isFinite v = true) ∧ isZero c.b0 = false ∧ isZero c.b1 = false :=
  ⟨List.all_eq_true.1 (by decide), by decide, by decide⟩

theorem witness_IdentitySlotPassesTheImpulse :
    let c : Coefs := ⟨0x3F8CDA93, 0xBFFD67F4, 0x3F664ADB, 0x3F8CDA93, 0xBFFD67F4, 0x3F664ADB⟩
    c.Sound ∧ c.b0 = c.a0 ∧ c.b1 = c.a1 ∧ c.b2 = c.a2 :=
  ⟨by unfold Coefs.Sound; decide, rfl, rfl, rfl⟩

theorem witness_SetTypeSetsTypeAndDirty : bank.mode = .interleaved := rfl

theorem witness_SetInterleaveResizesTheBank :
    bank.mode = .interleaved ∧ (1 ≤ 1 ∧ 1 ≤ 10) ∧ (1 ≤ 10 ∧ 10 ≤ 10) := by decide

/-- The cursor at its last place. -/
theorem witness_IncrementIndexAdvancesTheCursor : bank.mode = .interleaved ∧ (bank.band 4).InRange :=
  ⟨rfl, bank_inv.ranges 4⟩

theorem witness_IncrementIndexIsCyclic :
    bank.mode = .interleaved ∧ (bank.band 0).InRange ∧ 0 < (bank.band 0).depth.toNat ∧ 2 < (bank.band 0).depth.toNat :=
  ⟨rfl, bank_inv.ranges 0, by decide +kernel, by decide +kernel⟩

/-- Both policies, and the pass numbers at which BETWEEN differs. -/
theorem witness_OnePassStepsTheActiveSlot :
    refCfg.incPolicy = .afterEach ∧ { refCfg with incPolicy := .between }.incPolicy = .between ∧ 0 < 1 := by decide

/-- Both modes with OSF 2, and both policies. -/
theorem witness_TickRotatesByItsPasses :
    bank.Inv ∧ bank.mode = .interleaved ∧ (staged 0).Inv ∧ (staged 0).mode = .biquad ∧
    refCfg.incPolicy = .afterEach ∧ { refCfg with incPolicy := .between }.incPolicy = .between :=
  ⟨bank_inv, rfl, staged_inv, rfl, rfl, rfl⟩

/-- A band that has to recompute, and one that has not. -/
theorem witness_TickUpdatesEveryBand :
    (∃ t, exec .tick bank = .next t) ∧ (bank.band 0).dirty = true ∧ (∃ t, exec .tick clean = .next t) ∧
    ¬ ((clean.band 0).dirty = true ∨ parametersChanged 0 clean = true) :=
  ⟨exists_step (by decide +kernel), by decide +kernel, exists_step (by decide +kernel), by decide +kernel⟩

/-- IN_L of -0.0 and IN_R of 1.0, dry path only, OSF 2. -/
theorem witness_DryMixReproducesTheInput :
    let s := { clean with wetMix := 0, osf := 2, inL := 0x80000000, inR := 0x3F800000 }
    refCfg.P1 ∧ isZero s.inGainDb = true ∧ isZero s.outGainDb = true ∧ s.wetMix = 0x00000000 ∧
    isFinite s.inL = true ∧ isFinite s.inR = true ∧
    (let v := (cascade refCfg s.mode s.osf.toNat (s.inL, s.inR)
       (updateAll refCfg { s with preL := s.inL, preR := s.inR })).1
     isFinite v.1 = true ∧ isFinite v.2 = true) ∧ s.inL = 0x80000000 ∧ s.inR ≠ 0x80000000 :=
  ⟨refCfg_P1, by decide +kernel, by decide +kernel, by decide +kernel, by decide +kernel, by decide +kernel,
    by decide +kernel, by decide +kernel, by decide +kernel⟩

/-- A wet value of infinity, and one of -0.0. -/
theorem witness_FullWetReproducesTheChain :
    refCfg.P1 ∧ isZero 0x80000000 = true ∧ isFinite 0xFF7FFFFF = true ∧ isNaN 0x7F800000 = false ∧
    isZero 0x7F800000 = false ∧ isNaN 0x80000000 = false ∧ isZero 0x80000000 = true :=
  ⟨refCfg_P1, by decide, by decide, by decide, by decide, by decide, by decide⟩

theorem witness_IdentityChainPassesTheImpulse :
    refCfg.P1 ∧ isZero clean.inGainDb = true ∧ isZero clean.outGainDb = true ∧ clean.wetMix = 0x3F800000 ∧
    clean.osf = 0 ∧ clean.inL = 0x3F800000 ∧ clean.inR = 0x00000000 ∧
    ∀ b, (clean.band b).dirty = false ∧ parametersChanged b clean = false ∧
      ∀ k, ((clean.band b).slot k).coefs.Sound ∧ ((clean.band b).slot k).coefs.b0 = ((clean.band b).slot k).coefs.a0 ∧
        ((clean.band b).slot k).left = ⟨0, 0, 0, 0⟩ ∧ ((clean.band b).slot k).right = ⟨0, 0, 0, 0⟩ := by
  have h : ∀ b, (clean.band b).dirty = false ∧ parametersChanged b clean = false ∧
      ∀ k, ((clean.band b).slot k).coefs.degenerate = false ∧
        ((clean.band b).slot k).coefs.b0 = ((clean.band b).slot k).coefs.a0 ∧
        ((clean.band b).slot k).left = ⟨0, 0, 0, 0⟩ ∧ ((clean.band b).slot k).right = ⟨0, 0, 0, 0⟩ := by decide +kernel
  exact ⟨refCfg_P1, by decide, by decide, rfl, rfl, rfl, rfl, h⟩

/-- A tie between the patterns 1 and 2, and the greatest finite pattern; finite operands of both signs, an exact zero sum
among them; the least and the greatest number with a root. -/
theorem witness_RoundingIsNearestEven :
    (0 < 2 ∧ roundMag 3 2 < 0x7F800000 ∧ 1 < 0x7F800000 ∧
      distTimes 2 3 (patternMag (roundMag 3 2)) = distTimes 2 3 (patternMag 1) ∧ 1 ≠ roundMag 3 2) ∧
    (roundMag ((2 ^ 24 - 1) * 2 ^ 253) 1 < 0x7F800000 ∧ 0x7F7FFFFF < 0x7F800000) ∧
    (isFinite 0xBF800000 = true ∧ isFinite 0x3F800000 = true ∧ isZero 0x3F800000 = false ∧
      numOf 0xBF800000 + numOf 0x3F800000 = 0) ∧
    (isFinite 0x00000001 = true ∧ (0x00000001 : F32).msb = false ∧ isZero 0x00000001 = false) ∧
    (isFinite 0x7F7FFFFF = true ∧ (0x7F7FFFFF : F32).msb = false ∧ isZero 0x7F7FFFFF = false) := by decide +kernel

/-- The boundary; and operands whose sum, difference, product and quotient lie beyond it, by sign. -/
theorem witness_RoundingOverflowsToInfinity :
    ((0 < 1) ∧ (2 ^ 25 - 1) * 2 ^ 252 * 1 ≤ (2 ^ 25 - 1) * 2 ^ 252) ∧
    (isFinite 0xFF7FFFFF = true ∧ isFinite 0x7F7FFFFF = true) ∧
    (2 ^ 25 - 1) * 2 ^ 252 ≤ (numOf 0xFF7FFFFF + numOf 0xFF7FFFFF).natAbs ∧
    (2 ^ 25 - 1) * 2 ^ 252 ≤ (numOf 0x7F7FFFFF - numOf 0xFF7FFFFF).natAbs ∧
    (2 ^ 25 - 1) * 2 ^ 252 * 2 ^ 149 ≤ magOf 0xFF7FFFFF * magOf 0x7F7FFFFF ∧
    (isZero 0x00000001 = false ∧ (2 ^ 25 - 1) * 2 ^ 252 * magOf 0x00000001 ≤ magOf 0xFF7FFFFF * 2 ^ 149) := by
  decide +kernel

/-- A NaN operand of another pattern, operations that produce a NaN, and an operand that is none. -/
theorem witness_NaNResultsAreCanonical :
    isNaN 0x7F800001 = true ∧ isNaN (fsub 0x7F800000 0x7F800000) = true ∧ isNaN (fsqrt 0xBF800000) = true ∧
    isNaN (fneg 0xFF800001) = true ∧ isNaN 0xFF800000 = false := by decide

end Sys2Proof.Tests
end

section
/-! SUPPORT. Rounding: the magnitude patterns in the units they round to, the pattern nearest to a fraction, and where
it becomes the infinity (spec 00_scope.md R12, R13). -/

namespace Sys2Proof.Machine

/-! ## Magnitude patterns -/

/-- Rounding undoes `patternMag`. -/
theorem roundMag_patternMag {p : Nat} (hp : p < 0x7F800000) : roundMag (patternMag p) 1 = p := by
  obtain ⟨e, f, hf, rfl⟩ : ∃ e f, f < 2 ^ 23 ∧ p = e * 2 ^ 23 + f :=
    ⟨p / 2 ^ 23, p % 2 ^ 23, Nat.mod_lt _ (by decide), (Nat.div_add_mod' p _).symm⟩
  rw [patternMag_fields hf, ← Nat.mul_one (fieldsMag e f), roundMag_fieldsMag (by omega) hf Nat.one_pos]

theorem patternMag_inj {p r : Nat} (hp : p < 0x7F800000) (hr : r < 0x7F800000) (h : patternMag p = patternMag r) :
    p = r := by
  rw [← roundMag_patternMag hp, h, roundMag_patternMag hr]

/-- From exponent `L + 1` on, every magnitude is a multiple of `2 ^ L`. -/
theorem pow_dvd_patternMag {L p : Nat} (h : (L + 1) * 2 ^ 23 ≤ p) : 2 ^ L ∣ patternMag p := by
  unfold patternMag
  rw [if_neg (by omega)]
  exact Dvd.dvd.mul_left (pow_dvd_pow 2 (by omega)) _

/-- Below exponent `L + 1`, every magnitude is below `2 ^ 23 * 2 ^ L`. -/
theorem patternMag_lt {L p : Nat} (h : p < (L + 1) * 2 ^ 23) : patternMag p < 2 ^ 23 * 2 ^ L := by
  unfold patternMag
  split
  next => exact lt_of_lt_of_le (b := 2 ^ 23) (by omega) (Nat.le_mul_of_pos_right _ (by positivity))
  next he =>
    obtain ⟨c, hc⟩ : ∃ c, L = p / 2 ^ 23 - 1 + 1 + c := ⟨L - p / 2 ^ 23, by omega⟩
    calc (2 ^ 23 + p % 2 ^ 23) * 2 ^ (p / 2 ^ 23 - 1)
        < 2 ^ 24 * 2 ^ (p / 2 ^ 23 - 1) := Nat.mul_lt_mul_of_pos_right (by omega) (by positivity)
      _ = 2 ^ 23 * 2 ^ (p / 2 ^ 23 - 1 + 1) := by ring
      _ ≤ 2 ^ 23 * 2 ^ L := Nat.mul_le_mul_left _ (Nat.pow_le_pow_right (by decide) (by omega))

/-- A significand `k` on the unit `2 ^ L`, a carry into the exponent included. -/
theorem patternMag_significand {L k : Nat} (hk : k ≤ 2 ^ 24) (hL : L = 0 ∨ 2 ^ 23 ≤ k) :
    patternMag (L * 2 ^ 23 + k) = k * 2 ^ L := by
  rcases Nat.lt_or_ge k (2 ^ 23) with hsub | hnormal
  · obtain rfl : L = 0 := by omega
    rw [patternMag_fields hsub, fieldsMag, if_pos rfl, pow_zero, Nat.mul_one]
  · rcases hk.lt_or_eq with hlt | rfl
    · rw [show L * 2 ^ 23 + k = (L + 1) * 2 ^ 23 + (k - 2 ^ 23) by omega, patternMag_fields (by omega), fieldsMag,
        if_neg (by omega), Nat.add_sub_cancel, Nat.add_sub_cancel' hnormal]
    · rw [show L * 2 ^ 23 + 2 ^ 24 = (L + 2) * 2 ^ 23 + 0 by omega, patternMag_fields (by decide), fieldsMag,
        if_neg (by omega), show L + 2 - 1 = L + 1 from rfl]
      ring

/-! ## The unit a fraction rounds to -/

/-- The unit that `n / d` rounds to, times `d`. -/
def unitTimes (n d : Nat) : Nat := d * 2 ^ lostBits (n / d)

/-- The rounded pattern before overflow is cut off. -/
def roundPattern (n d : Nat) : Nat := lostBits (n / d) * 2 ^ 23 + roundEven n (unitTimes n d)

theorem roundMag_eq_min (n d : Nat) : roundMag n d = min (roundPattern n d) 0x7F800000 := rfl

theorem roundMag_eq_roundPattern {n d : Nat} (h : roundMag n d < 0x7F800000) : roundMag n d = roundPattern n d := by
  rw [roundMag_eq_min] at h ⊢
  omega

theorem unitTimes_pos (n : Nat) {d : Nat} (hd : 0 < d) : 0 < unitTimes n d :=
  Nat.mul_pos hd (Nat.two_pow_pos _)

theorem lt_unitTimes (n : Nat) {d : Nat} (hd : 0 < d) : n < 2 ^ 24 * unitTimes n d := by
  have hq : n / d < 2 ^ (24 + lostBits (n / d)) :=
    lt_of_lt_of_le Nat.lt_log2_self (Nat.pow_le_pow_right (by decide) (by unfold lostBits; omega))
  calc n < 2 ^ (24 + lostBits (n / d)) * d := (Nat.div_lt_iff_lt_mul hd).1 hq
    _ = 2 ^ 24 * unitTimes n d := by rw [unitTimes, pow_add]; ring

theorem unitTimes_le {n d : Nat} (h : lostBits (n / d) ≠ 0) : 2 ^ 23 * unitTimes n d ≤ n := by
  have hlog : 23 + lostBits (n / d) = (n / d).log2 := by unfold lostBits at h ⊢; omega
  have hq : n / d ≠ 0 := by intro h0; rw [h0] at h; exact h (by decide)
  calc 2 ^ 23 * unitTimes n d = 2 ^ (23 + lostBits (n / d)) * d := by rw [unitTimes, pow_add]; ring
    _ ≤ n / d * d := Nat.mul_le_mul_right _ (hlog ▸ Nat.log2_self_le hq)
    _ ≤ n := Nat.div_mul_le_self n d

/-! ## Rounding a quotient to a natural -/

theorem distTimes_eq (d n m : Nat) : distTimes d n m = (m * d - n) + (n - m * d) := by
  unfold distTimes
  rw [← Nat.cast_mul]
  omega

/-- No natural is nearer to `n / u` than `roundEven n u`, and where another is as near, it is even. -/
theorem roundEven_nearest (n : Nat) {u : Nat} (hu : 0 < u) (j : Nat) :
    distTimes u n (roundEven n u) ≤ distTimes u n j ∧
    (distTimes u n (roundEven n u) = distTimes u n j → j ≠ roundEven n u → roundEven n u % 2 = 0) := by
  have hn := Nat.div_add_mod' n u
  have hmod := Nat.mod_lt n hu
  have hup : (n / u + 1) * u = n / u * u + u := by ring
  have hj : j * u + u ≤ n / u * u ∨ j = n / u ∨ j = n / u + 1 ∨ n / u * u + 2 * u ≤ j * u := by
    rcases Nat.lt_trichotomy j (n / u) with h | h | h
    · left; nlinarith
    · exact .inr (.inl h)
    · rcases Nat.eq_or_lt_of_le h with h | h
      · exact .inr (.inr (.inl h.symm))
      · right; right; right; nlinarith
  rw [distTimes_eq, distTimes_eq]
  unfold roundEven
  split
  next => rcases hj with hj | rfl | rfl | hj <;> omega
  next => rcases hj with hj | rfl | rfl | hj <;> omega

/-- An even natural `j` is reached from half a unit below it on. -/
theorem le_roundEven_iff {n u j : Nat} (hu : 0 < u) (hj : 0 < j) (heven : j % 2 = 0) :
    j ≤ roundEven n u ↔ 2 * (j * u) ≤ 2 * n + u := by
  have hn := Nat.div_add_mod' n u
  have hmod := Nat.mod_lt n hu
  rcases Nat.lt_trichotomy j (n / u + 1) with h | rfl | h
  · have hlow : j * u ≤ n / u * u := Nat.mul_le_mul_right _ (by omega)
    have hround : n / u ≤ roundEven n u := by unfold roundEven; split <;> omega
    constructor <;> omega
  · have hup : (n / u + 1) * u = n / u * u + u := by ring
    unfold roundEven
    split <;> omega
  · have hhigh : (n / u + 2) * u ≤ j * u := Nat.mul_le_mul_right _ (by omega)
    have hup : (n / u + 2) * u = n / u * u + 2 * u := by ring
    have hround : roundEven n u ≤ n / u + 1 := by unfold roundEven; split <;> omega
    constructor <;> omega

/-- The significand has at most 24 bits, or is the carry `2 ^ 24`. -/
theorem roundEven_unitTimes_le (n : Nat) {d : Nat} (hd : 0 < d) : roundEven n (unitTimes n d) ≤ 2 ^ 24 := by
  have hq : n / unitTimes n d < 2 ^ 24 := (Nat.div_lt_iff_lt_mul (unitTimes_pos n hd)).2 (lt_unitTimes n hd)
  unfold roundEven
  split <;> omega

/-- Above the subnormal unit the significand has 24 bits. -/
theorem le_roundEven_unitTimes {n d : Nat} (hd : 0 < d) (h : lostBits (n / d) ≠ 0) :
    2 ^ 23 ≤ roundEven n (unitTimes n d) := by
  have := unitTimes_le h
  exact (le_roundEven_iff (unitTimes_pos n hd) (by decide) (by decide)).2 (by omega)

/-! ## Nearest, ties to even -/

/-- The magnitude of the rounded pattern. -/
theorem patternMag_roundPattern (n : Nat) {d : Nat} (hd : 0 < d) :
    patternMag (roundPattern n d) = roundEven n (unitTimes n d) * 2 ^ lostBits (n / d) := by
  refine patternMag_significand (roundEven_unitTimes_le n hd) ?_
  by_cases h : lostBits (n / d) = 0
  · exact .inl h
  · exact .inr (le_roundEven_unitTimes hd h)

/-- Distances of multiples of the unit are distances of significands. -/
theorem distTimes_mul_lostBits (n d k : Nat) :
    distTimes d n (k * 2 ^ lostBits (n / d)) = distTimes (unitTimes n d) n k := by
  rw [distTimes_eq, distTimes_eq, unitTimes, Nat.mul_assoc, Nat.mul_comm (2 ^ _) d]

/-- A pattern off the unit of `n / d` lies below the significands of 24 bits, so it is farther than the rounded one. -/
theorem roundPattern_lt_of_not_dvd {n d p : Nat} (hd : 0 < d) (h : ¬ 2 ^ lostBits (n / d) ∣ patternMag p) :
    distTimes d n (patternMag (roundPattern n d)) < distTimes d n (patternMag p) := by
  have hL : lostBits (n / d) ≠ 0 := by intro h0; rw [h0, pow_zero] at h; exact h (one_dvd _)
  have hp : p < (lostBits (n / d) + 1) * 2 ^ 23 := Nat.lt_of_not_le fun hle => h (pow_dvd_patternMag hle)
  have hlt : patternMag p * d < 2 ^ 23 * unitTimes n d := by
    calc patternMag p * d < 2 ^ 23 * 2 ^ lostBits (n / d) * d := Nat.mul_lt_mul_of_pos_right (patternMag_lt hp) hd
      _ = 2 ^ 23 * unitTimes n d := by rw [unitTimes]; ring
  have hle := unitTimes_le hL
  calc distTimes d n (patternMag (roundPattern n d))
      = distTimes (unitTimes n d) n (roundEven n (unitTimes n d)) := by
        rw [patternMag_roundPattern n hd, distTimes_mul_lostBits]
    _ ≤ distTimes (unitTimes n d) n (2 ^ 23) := (roundEven_nearest n (unitTimes_pos n hd) _).1
    _ < distTimes d n (patternMag p) := by rw [distTimes_eq, distTimes_eq]; omega

/-- No pattern is nearer to `n / d` than the rounded one; one that is as near is on the same unit, and, where it is
another magnitude, the rounded pattern is even. -/
theorem roundPattern_nearest (n : Nat) {d : Nat} (hd : 0 < d) (p : Nat) :
    distTimes d n (patternMag (roundPattern n d)) ≤ distTimes d n (patternMag p) ∧
    (distTimes d n (patternMag (roundPattern n d)) = distTimes d n (patternMag p) →
      2 ^ lostBits (n / d) ∣ patternMag p ∧
      (patternMag p ≠ patternMag (roundPattern n d) → roundPattern n d % 2 = 0)) := by
  by_cases hdvd : 2 ^ lostBits (n / d) ∣ patternMag p
  · obtain ⟨j, hj⟩ := hdvd
    rw [Nat.mul_comm] at hj
    obtain ⟨hle, htie⟩ := roundEven_nearest n (unitTimes_pos n hd) j
    rw [hj, patternMag_roundPattern n hd, distTimes_mul_lostBits, distTimes_mul_lostBits]
    refine ⟨hle, fun heq => ⟨Dvd.intro_left _ rfl, fun hne => ?_⟩⟩
    have heven := htie heq fun hjk => hne (by rw [hjk])
    unfold roundPattern
    omega
  · have hlt := roundPattern_lt_of_not_dvd hd hdvd
    exact ⟨hlt.le, fun heq => absurd heq hlt.ne⟩

/-- Rounding is to nearest, ties to even (00_scope.md R12). -/
theorem roundMag_nearest {n d p : Nat} (hd : 0 < d) (hr : roundMag n d < 0x7F800000) (hp : p < 0x7F800000) :
    distTimes d n (patternMag (roundMag n d)) ≤ distTimes d n (patternMag p) ∧
    (distTimes d n (patternMag (roundMag n d)) = distTimes d n (patternMag p) → p ≠ roundMag n d →
      roundMag n d % 2 = 0) := by
  obtain ⟨hle, htie⟩ := roundPattern_nearest n hd p
  rw [← roundMag_eq_roundPattern hr] at hle htie
  exact ⟨hle, fun heq hne => (htie heq).2 fun hmag => hne (patternMag_inj hp hr hmag)⟩

/-! ## Overflow -/

/-- Rounding gives the infinity exactly from half a unit above the greatest finite number on. -/
theorem roundMag_eq_inf_iff (n : Nat) {d : Nat} (hd : 0 < d) :
    roundMag n d = 0x7F800000 ↔ (2 ^ 25 - 1) * 2 ^ 252 * d ≤ n := by
  have hcarry := roundEven_unitTimes_le n hd
  have hlt := lt_unitTimes n hd
  have hpattern : roundMag n d = 0x7F800000 ↔ 0x7F800000 ≤ roundPattern n d := by rw [roundMag_eq_min]; omega
  rw [hpattern, roundPattern]
  rcases Nat.lt_trichotomy (lostBits (n / d)) 253 with hL | hL | hL
  · have hunit : unitTimes n d ≤ d * 2 ^ 252 := Nat.mul_le_mul_left _ (Nat.pow_le_pow_right (by decide) (by omega))
    constructor <;> intro h <;> omega
  · have hunit : unitTimes n d = 2 * (d * 2 ^ 252) := by rw [unitTimes, hL]; ring
    have hiff := le_roundEven_iff (n := n) (j := 2 ^ 24) (unitTimes_pos n hd) (by decide) (by decide)
    constructor <;> intro h <;> omega
  · have hunit : d * 2 ^ 254 ≤ unitTimes n d := Nat.mul_le_mul_left _ (Nat.pow_le_pow_right (by decide) hL)
    have hnormal := le_roundEven_unitTimes (n := n) hd (by omega)
    have hle := unitTimes_le (n := n) (d := d) (by omega)
    constructor <;> intro h <;> omega

end Sys2Proof.Machine
end

section
/-! SUPPORT. The operators on finite operands: the sum, the difference, the product and the quotient round the exact
result once, and beyond the overflow boundary give the signed infinity (spec 00_scope.md R12, R13). -/

namespace Sys2Proof.Machine

/-! ## Flipping the sign of a finite operand -/

theorem msb_flipSign (a : F32) : (flipSign a).msb = !a.msb := (flipSign_fields a).1

theorem magOf_flipSign (a : F32) : magOf (flipSign a) = magOf a := by
  obtain ⟨-, hexp, hfrac⟩ := flipSign_fields a
  rw [magOf, magOf, extractLsb'_toNat_fields, extractLsb'_toNat_fields, hexp, hfrac]

theorem numOf_flipSign (a : F32) : numOf (flipSign a) = -numOf a := by
  unfold numOf
  rw [msb_flipSign, magOf_flipSign]
  cases a.msb <;> simp

theorem isFinite_flipSign (a : F32) : isFinite (flipSign a) = isFinite a := by
  unfold isFinite
  rw [(flipSign_fields a).2.1]

/-! ## One rounding of the exact result -/

theorem magOf_ne_zero {a : F32} (ha : isFinite a = true) (h0 : isZero a = false) : magOf a ≠ 0 := by
  intro h
  have hzero : isZero a = true := (isZero_iff_fVal a).2 ⟨a.msb, h ▸ fVal_magOf ha⟩
  rw [hzero] at h0
  cases h0

theorem fadd_eq_fRound {a b : F32} (ha : isFinite a = true) (hb : isFinite b = true) :
    fadd a b = fRound (sumSign a.msb b.msb (numOf a + numOf b)) (numOf a + numOf b).natAbs 1 :=
  fadd_of_fin (fVal_magOf ha) (fVal_magOf hb)

theorem fsub_eq_fRound {a b : F32} (ha : isFinite a = true) (hb : isFinite b = true) :
    fsub a b = fRound (sumSign a.msb (!b.msb) (numOf a - numOf b)) (numOf a - numOf b).natAbs 1 := by
  rw [fsub, fadd_eq_fRound ha ((isFinite_flipSign b).trans hb), msb_flipSign, numOf_flipSign, Int.sub_eq_add_neg]

theorem fmul_eq_fRound {a b : F32} (ha : isFinite a = true) (hb : isFinite b = true) :
    fmul a b = fRound (a.msb ^^ b.msb) (magOf a * magOf b) (2 ^ 149) := by
  simp only [fmul, fVal_magOf ha, fVal_magOf hb]

theorem fdiv_eq_fRound {a b : F32} (ha : isFinite a = true) (hb : isFinite b = true) (h0 : isZero b = false) :
    fdiv a b = fRound (a.msb ^^ b.msb) (magOf a * 2 ^ 149) (magOf b) := by
  simp only [fdiv, fVal_magOf ha, fVal_magOf hb, if_neg (magOf_ne_zero hb h0)]

/-! ## Overflow to the signed infinity -/

theorem fInf_eq (neg : Bool) : fInf neg = if neg then 0xFF800000 else 0x7F800000 := by cases neg <;> decide

/-- From the boundary on, rounding gives the infinity of the sign. -/
theorem fRound_overflow (neg : Bool) {n d : Nat} (hd : 0 < d) (h : (2 ^ 25 - 1) * 2 ^ 252 * d ≤ n) :
    fRound neg n d = if neg then 0xFF800000 else 0x7F800000 := by
  rw [fRound, (roundMag_eq_inf_iff n hd).2 h, ← fInf_eq, fInf]

/-- An exact sum beyond the boundary is not zero, so its sign is its own. -/
theorem fRound_sum_overflow (s t : Bool) {x : Int} (h : (2 ^ 25 - 1) * 2 ^ 252 ≤ x.natAbs) :
    fRound (sumSign s t x) x.natAbs 1 = if x < 0 then 0xFF800000 else 0x7F800000 := by
  have hx : x ≠ 0 := by omega
  rw [fRound_overflow _ Nat.one_pos (by omega), sumSign, if_neg hx]
  simp only [decide_eq_true_eq]

end Sys2Proof.Machine
end

section
/-! SUPPORT. The square root: the half-way value that `fsqrt` rounds gives the pattern nearest to the exact root (spec
00_scope.md R12). -/

namespace Sys2Proof.Machine

/-- Twice the root of `n`, with its last bit set where the root is not exact. -/
def halfRoot (n : Nat) : Nat := 2 * isqrt n + if isqrt n * isqrt n = n then 0 else 1

theorem fsqrt_eq_roundMag {a : F32} (ha : isFinite a = true) (hpos : a.msb = false) (h0 : isZero a = false) :
    fsqrt a = BitVec.ofNat 32 (roundMag (halfRoot (magOf a * 2 ^ 149)) 2) := by
  simp only [fsqrt, fVal_magOf ha, if_neg (magOf_ne_zero ha h0), hpos, Bool.false_eq_true, if_false, fRound, fPack,
    Nat.zero_add, halfRoot]

theorem magOf_lt {a : F32} (ha : isFinite a = true) : magOf a < 2 ^ 277 := by
  have hexp := (isFinite_iff a).1 ha
  have hlt := fExp_lt a
  have hfrac := fFrac_lt a
  rw [magOf, extractLsb'_toNat_fields]
  calc patternMag (fExp a * 2 ^ 23 + fFrac a) < 2 ^ 23 * 2 ^ 254 := patternMag_lt (by omega)
    _ = 2 ^ 277 := by rw [← pow_add]

/-- Twice the exact root is `halfRoot n` or lies strictly within one of it, between even numbers: comparing with it is
comparing with `halfRoot n`, for every `m` but an odd one equal to it. -/
theorem sq_le_of_le_halfRoot {n m : Nat} (hn : n < 2 ^ 428) (hm : m ≤ halfRoot n)
    (htie : m = halfRoot n → m % 2 = 0) : m ^ 2 ≤ 4 * n := by
  obtain ⟨hlow, -⟩ := isqrt_spec hn
  have hm' : m ≤ 2 * isqrt n := by
    unfold halfRoot at hm htie
    by_cases hexact : isqrt n * isqrt n = n
    · rwa [if_pos hexact] at hm
    · rw [if_neg hexact] at hm htie
      omega
  nlinarith

theorem le_sq_of_halfRoot_le {n m : Nat} (hn : n < 2 ^ 428) (hm : halfRoot n ≤ m)
    (htie : m = halfRoot n → m % 2 = 0) : 4 * n ≤ m ^ 2 := by
  obtain ⟨-, hhigh⟩ := isqrt_spec hn
  unfold halfRoot at hm htie
  split at hm
  next hexact => nlinarith
  next hexact =>
    rw [if_neg hexact] at htie
    have hm' : 2 * (isqrt n + 1) ≤ m := by omega
    nlinarith

/-- Where twice the root is a natural, `halfRoot n` is that natural. -/
theorem eq_halfRoot_of_sq_eq {n m : Nat} (hn : n < 2 ^ 428) (h : m ^ 2 = 4 * n) : m = halfRoot n := by
  obtain ⟨hlow, hhigh⟩ := isqrt_spec hn
  have heven : 2 ∣ m := Nat.prime_two.dvd_of_dvd_pow (h ▸ Dvd.dvd.mul_right (by decide) n)
  obtain ⟨r, rfl⟩ := heven
  have hr : r * r = n := by nlinarith
  have hroot : isqrt n = r := by
    apply Nat.le_antisymm <;> nlinarith
  unfold halfRoot
  rw [hroot, if_pos hr, Nat.add_zero]

/-- The root is far above the subnormal unit and far below overflow. -/
theorem isqrt_bounds {n : Nat} (hlow : 2 ^ 149 ≤ n) (hhigh : n < 2 ^ 428) :
    2 ^ 24 ≤ isqrt n ∧ isqrt n < 2 ^ 214 := by
  obtain ⟨hle, hlt⟩ := isqrt_spec hhigh
  constructor <;> by_contra h
  · have : (isqrt n + 1) * (isqrt n + 1) ≤ 2 ^ 24 * 2 ^ 24 := Nat.mul_le_mul (by omega) (by omega)
    omega
  · have : 2 ^ 214 * 2 ^ 214 ≤ isqrt n * isqrt n := Nat.mul_le_mul (by omega) (by omega)
    omega

theorem halfRoot_div_two (n : Nat) : halfRoot n / 2 = isqrt n := by
  unfold halfRoot
  split <;> omega

theorem lostBits_halfRoot_ne_zero {n : Nat} (hlow : 2 ^ 149 ≤ n) (hhigh : n < 2 ^ 428) :
    lostBits (halfRoot n / 2) ≠ 0 := by
  have hroot := (isqrt_bounds hlow hhigh).1
  have hlog : 24 ≤ (isqrt n).log2 := (Nat.le_log2 (by omega)).2 hroot
  rw [halfRoot_div_two, lostBits]
  omega

theorem roundMag_halfRoot_lt {n : Nat} (hlow : 2 ^ 149 ≤ n) (hhigh : n < 2 ^ 428) :
    roundMag (halfRoot n) 2 < 0x7F800000 := by
  have hroot := (isqrt_bounds hlow hhigh).2
  have hdiv := halfRoot_div_two n
  have hfinite : roundMag (halfRoot n) 2 ≠ 0x7F800000 := fun h => by
    have := (roundMag_eq_inf_iff (halfRoot n) Nat.two_pos).1 h
    omega
  exact lt_of_le_of_ne (roundMag_le _ _) hfinite

/-- Half a sum is as far from the one number as from the other. -/
theorem distTimes_two_eq {n r p : Nat} (h : p + r = n) : distTimes 2 n r = distTimes 2 n p := by
  rw [distTimes_eq, distTimes_eq]
  omega

/-- No boundary of the rounding lies strictly between two naturals of the root's size: where `halfRoot n` is twice the
middle of the rounded pattern and another, both are on one unit above 2^-149, so it is even. -/
theorem even_of_middle_eq_halfRoot {n p : Nat} (hlow : 2 ^ 149 ≤ n) (hhigh : n < 2 ^ 428)
    (h : patternMag p + patternMag (roundMag (halfRoot n) 2) = halfRoot n) :
    (patternMag p + patternMag (roundMag (halfRoot n) 2)) % 2 = 0 := by
  have htie := distTimes_two_eq h
  rw [roundMag_eq_roundPattern (roundMag_halfRoot_lt hlow hhigh)] at htie ⊢
  obtain ⟨hp, -⟩ := (roundPattern_nearest (halfRoot n) Nat.two_pos p).2 htie
  have hr : 2 ^ lostBits (halfRoot n / 2) ∣ patternMag (roundPattern (halfRoot n) 2) := by
    rw [patternMag_roundPattern _ Nat.two_pos]
    exact Nat.dvd_mul_left _ _
  exact Nat.mod_eq_zero_of_dvd ((dvd_pow_self 2 (lostBits_halfRoot_ne_zero hlow hhigh)).trans (Nat.dvd_add hp hr))

/-- The half-way value rounds to the pattern nearest to the exact root, ties to even. -/
theorem nearestRoot_roundMag {n : Nat} (hlow : 2 ^ 149 ≤ n) (hhigh : n < 2 ^ 428) :
    NearestRoot n (roundMag (halfRoot n) 2) := by
  have hr := roundMag_halfRoot_lt hlow hhigh
  refine ⟨hr, fun p hp => ?_⟩
  obtain ⟨hnear, htie⟩ := roundMag_nearest (n := halfRoot n) Nat.two_pos hr hp
  have heven := even_of_middle_eq_halfRoot (p := p) hlow hhigh
  refine ⟨fun hlt => sq_le_of_le_halfRoot hhigh ?_ heven, fun hlt => le_sq_of_halfRoot_le hhigh ?_ heven,
    fun hne hsq => htie (distTimes_two_eq (eq_halfRoot_of_sq_eq hhigh hsq)) hne⟩
  all_goals
    rw [distTimes_eq, distTimes_eq] at hnear
    omega

/-- The root of a number above zero is the number nearest to the exact root (00_scope.md R12). -/
theorem fsqrt_nearestRoot {a : F32} (ha : isFinite a = true) (hpos : a.msb = false) (h0 : isZero a = false) :
    ∃ r, fsqrt a = BitVec.ofNat 32 r ∧ NearestRoot (magOf a * 2 ^ 149) r := by
  have hlow := magOf_ne_zero ha h0
  have hhigh := magOf_lt ha
  exact ⟨_, fsqrt_eq_roundMag ha hpos h0, nearestRoot_roundMag (by omega) (by omega)⟩

end Sys2Proof.Machine
end

section
/-! SUPPORT. NaN and equality, by the value of a pattern (spec 00_scope.md R12, R13). -/

namespace Sys2Proof.Machine

/-! ## Which results are a NaN -/

theorem isNaN_iff (a : F32) : isNaN a = true ↔ fExp a = 255 ∧ fFrac a ≠ 0 := by
  unfold isNaN fVal
  split
  next => split <;> simp [*]
  next => split <;> simp [*]

theorem isNaN_fPack (neg : Bool) {m : Nat} (h : m ≤ 0x7F800000) : isNaN (fPack neg m) = false := by
  have hfields := toNat_eq_fields (fPack neg m)
  have hfrac := fFrac_lt (fPack neg m)
  have hpack : (fPack neg m).toNat = (if neg then 2 ^ 31 else 0) + m := by
    rw [fPack, BitVec.toNat_ofNat, Nat.mod_eq_of_lt]
    split <;> omega
  rw [← Bool.not_eq_true, isNaN_iff]
  rintro ⟨hexp, hne⟩
  rw [hpack, hexp] at hfields
  split at hfields <;> split at hfields <;> omega

theorem isNaN_fInf (neg : Bool) : isNaN (fInf neg) = false := isNaN_fPack neg le_rfl

theorem isNaN_fZero (neg : Bool) : isNaN (fZero neg) = false := isNaN_fPack neg (Nat.zero_le _)

theorem isNaN_fRound (neg : Bool) (n d : Nat) : isNaN (fRound neg n d) = false := isNaN_fPack neg (roundMag_le n d)

theorem isNaN_flipSign (a : F32) : isNaN (flipSign a) = isNaN a := by
  obtain ⟨-, hexp, hfrac⟩ := flipSign_fields a
  rw [Bool.eq_iff_iff, isNaN_iff, isNaN_iff, hexp, hfrac]

/-- The law of R13 for a result `y` of the operands `xs`: the canonical NaN, or no NaN anywhere. -/
def NaNLaw (xs : List F32) (y : F32) : Prop := y = canonNaN ∨ (∀ x ∈ xs, isNaN x = false) ∧ isNaN y = false

theorem NaNLaw.canonical {xs : List F32} {y : F32} (h : NaNLaw xs y)
    (hnan : (∃ x ∈ xs, isNaN x = true) ∨ isNaN y = true) : y = canonNaN := by
  rcases h with h | ⟨hxs, hy⟩
  · exact h
  · rcases hnan with ⟨x, hx, hnan⟩ | hnan
    · rw [hxs x hx] at hnan; cases hnan
    · rw [hy] at hnan; cases hnan

theorem isNaN_eq_false_iff (a : F32) : isNaN a = false ↔ fVal a ≠ .nan := by simp [isNaN]

theorem NaNLaw.unary {a y : F32} (ha : fVal a ≠ .nan) (hy : isNaN y = false) : NaNLaw [a] y :=
  .inr ⟨by simpa using (isNaN_eq_false_iff a).2 ha, hy⟩

theorem NaNLaw.binary {a b y : F32} (ha : fVal a ≠ .nan) (hb : fVal b ≠ .nan) (hy : isNaN y = false) :
    NaNLaw [a, b] y :=
  .inr ⟨by simp [(isNaN_eq_false_iff a).2 ha, (isNaN_eq_false_iff b).2 hb], hy⟩

theorem fadd_nanLaw (a b : F32) : NaNLaw [a, b] (fadd a b) := by
  unfold fadd
  split
  next => exact .inl rfl
  next => exact .inl rfl
  next ha hb =>
    split
    next => exact .binary (by simp [ha]) (by simp [hb]) (isNaN_fInf _)
    next => exact .inl rfl
  next ha hb => exact .binary (by simp [ha]) (by simp [hb]) (isNaN_fInf _)
  next => exact .inl rfl
  next ha hb => exact .binary (by simp [ha]) (by simp [hb]) (isNaN_fInf _)
  next ha hb => exact .binary (by simp [ha]) (by simp [hb]) (isNaN_fRound _ _ _)

theorem fsub_nanLaw (a b : F32) : NaNLaw [a, b] (fsub a b) := by
  simpa [NaNLaw, fsub, isNaN_flipSign] using fadd_nanLaw a (flipSign b)

theorem fmul_nanLaw (a b : F32) : NaNLaw [a, b] (fmul a b) := by
  unfold fmul
  split
  next => exact .inl rfl
  next => exact .inl rfl
  next ha hb => exact .binary (by simp [ha]) (by simp [hb]) (isNaN_fInf _)
  next ha hb =>
    split
    next => exact .inl rfl
    next => exact .binary (by simp [ha]) (by simp [hb]) (isNaN_fInf _)
  next => exact .inl rfl
  next ha hb =>
    split
    next => exact .inl rfl
    next => exact .binary (by simp [ha]) (by simp [hb]) (isNaN_fInf _)
  next ha hb => exact .binary (by simp [ha]) (by simp [hb]) (isNaN_fRound _ _ _)

theorem fdiv_nanLaw (a b : F32) : NaNLaw [a, b] (fdiv a b) := by
  unfold fdiv
  split
  next => exact .inl rfl
  next => exact .inl rfl
  next => exact .inl rfl
  next ha hb => exact .binary (by simp [ha]) (by simp [hb]) (isNaN_fInf _)
  next => exact .inl rfl
  next ha hb => exact .binary (by simp [ha]) (by simp [hb]) (isNaN_fZero _)
  next ha hb =>
    split
    next =>
      split
      next => exact .inl rfl
      next => exact .binary (by simp [ha]) (by simp [hb]) (isNaN_fInf _)
    next => exact .binary (by simp [ha]) (by simp [hb]) (isNaN_fRound _ _ _)

theorem fsqrt_nanLaw (a : F32) : NaNLaw [a] (fsqrt a) := by
  unfold fsqrt
  split
  next => exact .inl rfl
  next ha =>
    split
    next => exact .inl rfl
    next => exact .unary (by simp [ha]) (isNaN_fInf _)
  next ha =>
    split
    next => exact .unary (by simp [ha]) (isNaN_fZero _)
    next =>
      split
      next => exact .inl rfl
      next => exact .unary (by simp [ha]) (isNaN_fRound _ _ _)

theorem fneg_nanLaw (a : F32) : NaNLaw [a] (fneg a) := by
  cases ha : isNaN a with
  | true => exact .inl (fneg_of_isNaN ha)
  | false =>
    refine .unary ((isNaN_eq_false_iff a).1 ha) ?_
    rw [fneg_of_not_isNaN ha, isNaN_flipSign, ha]

/-! ## Equality -/

theorem fVal_inf {a : F32} {s : Bool} (h : fVal a = .inf s) : a = fInf s := by
  unfold fVal at h
  split at h
  next hexp =>
    split at h
    next hfrac =>
      cases h
      have hfields := fPack_fields a
      rw [hexp, hfrac] at hfields
      exact hfields.symm
    next => cases h
  next => split at h <;> cases h

/-- But for the NaNs, a pattern is given by what it stands for. -/
theorem eq_iff_fVal {a b : F32} (ha : fVal a ≠ .nan) : a = b ↔ fVal a = fVal b := by
  refine ⟨congrArg fVal, fun h => ?_⟩
  cases hb : fVal b with
  | nan => exact absurd (h.trans hb) ha
  | inf s => exact (fVal_inf (h.trans hb)).trans (fVal_inf hb).symm
  | fin s m => exact (fRound_exact (h.trans hb) Nat.one_pos).symm.trans (fRound_exact hb Nat.one_pos)

theorem signedMag_eq_iff {s t : Bool} {m n : Nat} :
    signedMag s m = signedMag t n ↔ (s = t ∧ m = n) ∨ (m = 0 ∧ n = 0) := by
  cases s <;> cases t <;> simp [signedMag] <;> omega

theorem feq_iff (a b : F32) :
    feq a b = true ↔ isNaN a = false ∧ isNaN b = false ∧ (a = b ∨ (isZero a = true ∧ isZero b = true)) := by
  rw [isNaN_eq_false_iff, isNaN_eq_false_iff, isZero_iff_fVal, isZero_iff_fVal]
  unfold feq
  split
  next s t ha hb => simp [eq_iff_fVal (a := a) (b := b), ha, hb]
  next s m t n ha hb => simp [eq_iff_fVal (a := a) (b := b), ha, hb, signedMag_eq_iff]
  next hinf hfin =>
    refine ⟨fun h => absurd h (by decide), ?_⟩
    rintro ⟨ha, -, rfl | ⟨⟨s, hs⟩, t, ht⟩⟩
    · cases hv : fVal a with
      | nan => exact absurd hv ha
      | inf s => exact (hinf s s hv hv).elim
      | fin s m => exact (hfin s m s m hv hv).elim
    · exact (hfin s 0 t 0 hs ht).elim

end Sys2Proof.Machine
end

section
/-! THEOREM. The arithmetic of R12 and R13: what the operators round to, where they overflow, which NaN they give, and
when two patterns are equal. -/

namespace Sys2Proof.Machine

/-- Settles O57: the nearest pattern by the unit of the rounding, the operators by one rounding of the exact result, the
root by its half-way value. -/
theorem roundingIsNearestEven : Obligations.RoundingIsNearestEven := by
  refine ⟨fun n d p hd hr hp => roundMag_nearest hd hr hp, fun a b ha hb => ⟨?_, ?_, ?_, fun h0 => ?_⟩,
    fun a ha hpos h0 => fsqrt_nearestRoot ha hpos h0⟩ <;> rw [signedRound_eq_fRound]
  · exact fadd_eq_fRound ha hb
  · exact fsub_eq_fRound ha hb
  · exact fmul_eq_fRound ha hb
  · exact fdiv_eq_fRound ha hb h0

/-- Settles O58: the boundary by the exponent of the rounding, the operators by one rounding of the exact result. -/
theorem roundingOverflowsToInfinity : Obligations.RoundingOverflowsToInfinity := by
  refine ⟨fun n d hd => roundMag_eq_inf_iff n hd, fun a b ha hb =>
    ⟨fun h => ?_, fun h => ?_, fun h => ?_, fun h0 h => ?_⟩⟩
  · rw [fadd_eq_fRound ha hb, fRound_sum_overflow _ _ h]
  · rw [fsub_eq_fRound ha hb, fRound_sum_overflow _ _ h]
  · rw [fmul_eq_fRound ha hb, fRound_overflow _ (by positivity) h]
    simp
  · rw [fdiv_eq_fRound ha hb h0, fRound_overflow _ (Nat.pos_of_ne_zero (magOf_ne_zero hb h0)) h]
    simp

/-- Settles O59: each operator keeps the law of R13, by the cases of its operands' values. -/
theorem naNResultsAreCanonical : Obligations.NaNResultsAreCanonical := by
  intro a b
  refine ⟨fun y hy hnan => ?_, fun y hy hnan => ?_, fneg_of_not_isNaN⟩
  · have hlaw : NaNLaw [a, b] y := by
      simp only [List.mem_cons, List.not_mem_nil, or_false] at hy
      rcases hy with rfl | rfl | rfl | rfl
      · exact fadd_nanLaw a b
      · exact fsub_nanLaw a b
      · exact fmul_nanLaw a b
      · exact fdiv_nanLaw a b
    exact hlaw.canonical (by simpa [or_assoc] using hnan)
  · have hlaw : NaNLaw [a] y := by
      simp only [List.mem_cons, List.not_mem_nil, or_false] at hy
      rcases hy with rfl | rfl
      · exact fsqrt_nanLaw a
      · exact fneg_nanLaw a
    exact hlaw.canonical (by simpa using hnan)

/-- Settles O60, by the values of the two patterns. -/
theorem feqIsIeeeEquality : Obligations.FeqIsIeeeEquality := by
  exact feq_iff

end Sys2Proof.Machine
end

section
/-! SUPPORT. Predicates of one band that the operations keep: which operations a predicate has to survive
(`KeptByBank`, `KeptByUpdate`), and that every command then keeps it of all bands; the invariant of one band is such a
predicate (spec 10_state.md R41, R42). -/

namespace Sys2Proof.Machine

/-! ## Predicates of all bands -/

/-- Every band `b` of the state meets `P b`. -/
def State.AllBands (P : Fin 5 → Band → Prop) (s : State) : Prop := ∀ b, P b (s.band b)

/-- What Recompute makes of a band, from the set `c` and the sample rate (41_biquad_core.md R123). -/
def Band.recomputed (x : Band) (c : Coefs) (fs : F32) : Band :=
  { x.setCoefs c with stFs := fs, stFreq := x.freq, stGain := x.gainDb, stQ := x.q, dirty := false }

/-- What INIT_BAND makes of a band before it recomputes (41_biquad_core.md R122). -/
def Band.initialised (x : Band) (t : FilterType) (d : BitVec 4) : Band :=
  { x.clearHistory with ftype := t, depth := d, active := 0 }

theorem recompute_eq (cfg : Params) (b : Fin 5) (s : State) :
    ∃ c, recompute cfg b s = (s.setBand b ((s.band b).recomputed c s.sampleRate)).noteNonfinite c.degenerate :=
  ⟨_, rfl⟩

theorem runInitBand_eq (cfg : Params) (b : Fin 5) (t : FilterType) (d : BitVec 4) (s : State) :
    runInitBand cfg b t d s = recompute cfg b (s.setBand b ((s.band b).initialised t d)) := rfl

/-- The predicate survives everything a command does to a band in mode `m` but a recomputation. -/
structure KeptByBank (m : Mode) (P : Band → Prop) : Prop where
  setSlot : ∀ x k y, y.coefs = (x.slot k).coefs → P x → P (x.setSlot k y)
  incIndex : ∀ x, P x → P x.incIndex
  clearHistory : ∀ x, P x → P x.clearHistory
  setTypeTo : ∀ x t, P x → P (x.setTypeTo t)
  setDepthTo : ∀ x n d, m = .interleaved → checkDepth n = .ok d → P x → P (x.setDepthTo d)

/-- The predicate survives everything a command does to a band in mode `m`. -/
structure KeptByUpdate (m : Mode) (P : Band → Prop) : Prop extends KeptByBank m P where
  recomputed : ∀ x c fs, P x → P (x.recomputed c fs)
  initialised : ∀ x t n d, initDepth m n = .ok d → P x → P (x.initialised t d)

section
variable {P : Fin 5 → Band → Prop} {m : Mode} {s : State}

theorem State.AllBands.congr {t : State} (h : s.AllBands P) (e : t.bands = s.bands) : t.AllBands P := by
  intro b
  rw [State.band, e]
  exact h b

theorem State.AllBands.setBand (h : s.AllBands P) {b : Fin 5} {x : Band} (hx : P b x) : (s.setBand b x).AllBands P := by
  intro d
  rw [State.band_setBand]
  split
  next e => exact e ▸ hx
  next => exact h d

theorem State.AllBands.forEach (h : s.AllBands P) {f : Band → Band} (hf : ∀ b x, P b x → P b (f x)) :
    State.AllBands P { s with bands := Machine.forEach (fun _ x => f x) s.bands } := by
  intro b
  have e : State.band { s with bands := Machine.forEach (fun _ x => f x) s.bands } b = f (s.band b) :=
    forEach_get _ _ _
  exact e ▸ hf b _ (h b)

theorem allBands_df1 (hP : ∀ b, KeptByBank m (P b)) (h : s.AllBands P) (b : Fin 5) (k : Fin 10) (ch : Channel)
    (x : F32) : (df1 b k ch x s).2.AllBands P :=
  h.setBand ((hP b).setSlot _ _ _ (Slot.setLane_coefs _ _ _) (h b))

theorem allBands_stepPair (hP : ∀ b, KeptByBank m (P b)) (h : s.AllBands P) (b : Fin 5) (k : Fin 10)
    (v : F32 × F32) : (stepPair b k v s).2.AllBands P :=
  allBands_df1 hP (allBands_df1 hP h _ _ _ _) _ _ _ _

theorem allBands_runProcessBand (hP : ∀ b, KeptByBank m (P b)) (h : s.AllBands P) (b : Fin 5) :
    (runProcessBand b s).AllBands P :=
  (allBands_stepPair hP h b (s.band b).active (s.inL, s.inR)).congr rfl

theorem allBands_incIdx (hP : ∀ b, KeptByBank m (P b)) (h : s.AllBands P) (b : Fin 5) : (incIdx b s).AllBands P :=
  h.setBand ((hP b).incIndex _ (h b))

theorem allBands_onePass (hP : ∀ b, KeptByBank m (P b)) (cfg : Params) (m' : Mode) (b : Fin 5)
    {acc : (F32 × F32) × State} (h : State.AllBands P acc.2) (p : Nat) : (onePass cfg m' b acc p).2.AllBands P := by
  have before : (rotateBefore cfg m' b p acc.2).AllBands P := by
    unfold rotateBefore
    split
    · exact allBands_incIdx hP h b
    · exact h
  have stepped := allBands_stepPair hP before b ((rotateBefore cfg m' b p acc.2).band b).active acc.1
  simp only [onePass, stepActive, rotateAfter]
  split
  · exact allBands_incIdx hP stepped b
  · exact stepped

theorem allBands_bandPasses (hP : ∀ b, KeptByBank m (P b)) (cfg : Params) (m' : Mode) (k : Nat)
    {acc : (F32 × F32) × State} (h : acc.2.AllBands P) (b : Fin 5) : (bandPasses cfg m' k acc b).2.AllBands P :=
  List.foldlRecOn (motive := fun r : (F32 × F32) × State => State.AllBands P r.2) _ _ h
    fun _ hr p _ => allBands_onePass hP cfg m' b hr p

theorem allBands_cascade (hP : ∀ b, KeptByBank m (P b)) (h : s.AllBands P) (cfg : Params) (m' : Mode) (k : Nat)
    (v : F32 × F32) : (cascade cfg m' k v s).2.AllBands P :=
  List.foldlRecOn (motive := fun r : (F32 × F32) × State => State.AllBands P r.2) _ _ h
    fun _ hr b _ => allBands_bandPasses hP cfg m' k hr b

theorem allBands_recompute (hP : ∀ b, KeptByUpdate m (P b)) (h : s.AllBands P) (cfg : Params) (b : Fin 5) :
    (recompute cfg b s).AllBands P := by
  obtain ⟨c, e⟩ := recompute_eq cfg b s
  rw [e]
  exact h.setBand ((hP b).recomputed _ _ _ (h b))

theorem allBands_lazyUpdate (hP : ∀ b, KeptByUpdate m (P b)) (h : s.AllBands P) (cfg : Params) (b : Fin 5) :
    (lazyUpdate cfg b s).AllBands P := by
  unfold lazyUpdate
  split
  · exact allBands_recompute hP h cfg b
  · exact h

theorem allBands_updateAll (hP : ∀ b, KeptByUpdate m (P b)) (h : s.AllBands P) (cfg : Params) :
    (updateAll cfg s).AllBands P :=
  List.foldlRecOn (motive := State.AllBands P) _ _ h fun _ ht b _ => allBands_lazyUpdate hP ht cfg b

theorem allBands_runTick (hP : ∀ b, KeptByUpdate m (P b)) (h : s.AllBands P) (cfg : Params) :
    (runTick cfg s).AllBands P :=
  allBands_cascade (fun b => (hP b).toKeptByBank)
    (allBands_updateAll (s := { s with
      preL := fmul s.inL (linGain cfg s.inGainDb), preR := fmul s.inR (linGain cfg s.inGainDb) }) hP h cfg) cfg _ _ _

end

/-! ## Commands -/

/-- The commands that can recompute the coefficients of a band (10_state.md R37, R39). -/
def Recomputes : Instr → Prop
  | .initBand _ _ _ => True
  | .updateBand _ => True
  | .tick => True
  | _ => False

section
variable {P : Fin 5 → Band → Prop} {i : Instr} {s t : State}

theorem allBands_effectOf_of_not_recomputes (hP : ∀ b, KeptByBank s.mode (P b)) (hi : ¬ Recomputes i)
    (e : EffectOf i s t) (h : s.AllBands P) : t.AllBands P := by
  cases i with
  | nop => exact (show t = s from e) ▸ h
  | initBand => exact absurd trivial hi
  | updateBand => exact absurd trivial hi
  | setType b ft =>
    obtain ⟨b', ft', -, -, -, rfl⟩ := e
    exact h.setBand ((hP b').setTypeTo _ _ (h b'))
  | setInterleave b n =>
    obtain ⟨b', d, -, hm, hd, rfl⟩ := e
    exact h.setBand ((hP b').setDepthTo _ n d hm hd (h b'))
  | processBand b =>
    obtain ⟨b', -, rfl⟩ := e
    exact allBands_runProcessBand hP h b'
  | incrementIndex b =>
    obtain ⟨b', -, -, rfl⟩ := e
    exact allBands_incIdx hP h b'
  | resetHistory => exact (show t = runResetHistory s from e) ▸ h.forEach fun b => (hP b).clearHistory
  | tick => exact absurd trivial hi
  | map => exact (show t = runMap Config.build s from e) ▸ h
  | solve ft =>
    obtain ⟨ft', -, rfl⟩ := e
    exact h

theorem allBands_effectOf (hP : ∀ b, KeptByUpdate s.mode (P b)) (e : EffectOf i s t) (h : s.AllBands P) :
    t.AllBands P := by
  by_cases hi : Recomputes i
  · cases i with
    | initBand b ft n =>
      obtain ⟨b', ft', d, -, -, hd, rfl⟩ := e
      rw [runInitBand_eq]
      exact allBands_recompute hP (h.setBand ((hP b').initialised _ _ n d hd (h b'))) _ _
    | updateBand b =>
      obtain ⟨b', -, rfl⟩ := e
      exact allBands_lazyUpdate hP h _ _
    | tick => exact (show t = runTick Config.build s from e) ▸ allBands_runTick hP h _
    | _ => exact hi.elim
  · exact allBands_effectOf_of_not_recomputes (fun b => (hP b).toKeptByBank) hi e h

/-- A command that is refused or does not recompute keeps of all bands what the bank operations keep. -/
theorem allBands_exec_of_not_recomputes (hP : ∀ b, KeptByBank s.mode (P b)) (hi : ¬ Recomputes i)
    (e : exec i s = .next t) (h : s.AllBands P) : t.AllBands P := by
  rcases exec_cases e with ⟨c, rfl⟩ | e
  · exact h
  · exact allBands_effectOf_of_not_recomputes hP hi e h

/-- Every command keeps of all bands what the operations on a band keep. -/
theorem allBands_exec (hP : ∀ b, KeptByUpdate s.mode (P b)) (e : exec i s = .next t) (h : s.AllBands P) :
    t.AllBands P := by
  rcases exec_cases e with ⟨c, rfl⟩ | e
  · exact h
  · exact allBands_effectOf hP e h

end

/-! ## Coefficients -/

section
variable (x : Band) (k : Fin 10)

theorem Band.coefs_setSlot {j : Fin 10} {y : Slot} (h : y.coefs = (x.slot j).coefs) :
    ((x.setSlot j y).slot k).coefs = (x.slot k).coefs := by
  rw [Band.slot_setSlot]
  split
  next e => rw [h, e]
  next => rfl

@[simp] theorem Band.coefs_setDepthTo (d : BitVec 4) : ((x.setDepthTo d).slot k).coefs = (x.slot k).coefs := by
  simp only [Band.slot, Band.setDepthTo_slots, zeroIncluded_get]
  split <;> rfl

@[simp] theorem Band.slot_initialised (t : FilterType) (d : BitVec 4) :
    (x.initialised t d).slot k = (x.slot k).clearHistory := Band.slot_clearHistory x k

@[simp] theorem Band.coefs_recomputed (c : Coefs) (fs : F32) : ((x.recomputed c fs).slot k).coefs = c :=
  congrArg Slot.coefs (Band.slot_setCoefs x c k)

end

/-! ## The invariant of one band -/

theorem typeCode_le (t : FilterType) : typeCode t ≤ 6 := by cases t <;> decide

/-- The invariants of R41 and R42 for one band in mode `m`. -/
structure Band.Inv (m : Mode) (x : Band) : Prop where
  range   : x.InRange
  single  : m = .biquad → x.Single
  uniform : x.Uniform

/-- The invariants are those of every band, and the range of OSF. -/
theorem State.inv_iff (s : State) : s.Inv ↔ s.osf.toNat ≤ 2 ∧ s.AllBands fun _ => Band.Inv s.mode :=
  ⟨fun h => ⟨h.osf, fun b => ⟨h.ranges b, fun hm => h.single hm b, h.uniform b⟩⟩,
    fun ⟨hosf, h⟩ => ⟨fun b => (h b).range, fun hm b => (h b).single hm, hosf, fun b => (h b).uniform⟩⟩

section
variable {m : Mode} {x y : Band}

theorem Band.Uniform.of_coefs (h : x.Uniform) (hc : ∀ k, (y.slot k).coefs = (x.slot k).coefs) : y.Uniform := by
  intro j k
  rw [hc j, hc k, h j k]

/-- A band of DEPTH 1 and ACTIVE 0 is within its ranges, in either mode. -/
theorem Band.Single.inv (hs : x.Single) (hu : x.Uniform) : x.Inv m := by
  refine ⟨⟨?_, ?_, ?_, typeCode_le _⟩, fun _ => hs, hu⟩ <;> simp [hs.1, hs.2]

/-- The invariant looks at DEPTH, ACTIVE and the coefficients only: every TYPE is in range. -/
theorem Band.Inv.congr (h : x.Inv m) (hd : y.depth = x.depth) (ha : y.active = x.active)
    (hc : ∀ k, (y.slot k).coefs = (x.slot k).coefs) : y.Inv m := by
  obtain ⟨⟨hd1, hd10, hlt, -⟩, hsingle, hu⟩ := h
  refine ⟨⟨?_, ?_, ?_, typeCode_le _⟩, fun hm => ?_, hu.of_coefs hc⟩
  · rwa [hd]
  · rwa [hd]
  · rwa [hd, ha]
  · exact ⟨hd.trans (hsingle hm).1, ha.trans (hsingle hm).2⟩

/-- ACTIVE stays below DEPTH, and at 0 where DEPTH is 1. -/
theorem Band.Inv.incIndex (h : x.Inv m) : x.incIndex.Inv m := by
  have hact := Band.incIndex_active x h.range
  obtain ⟨⟨hd1, hd10, -, -⟩, hsingle, hu⟩ := h
  refine ⟨⟨hd1, hd10, ?_, typeCode_le _⟩, fun hm => ⟨(hsingle hm).1, Fin.ext ?_⟩, hu⟩
  · rw [hact]
    exact Nat.mod_lt _ hd1
  · rw [hact, (hsingle hm).1]
    exact Nat.mod_one _

theorem Band.Inv.setDepthTo {n : Nat} {d : BitVec 4} (h : x.Inv m) (hm : m = .interleaved) (hd : checkDepth n = .ok d) :
    (x.setDepthTo d).Inv m := by
  obtain ⟨hdn, hn1, hn10⟩ := checkDepth_ok hd
  refine ⟨⟨?_, ?_, ?_, typeCode_le _⟩, fun hb => ?_, h.uniform.of_coefs (Band.coefs_setDepthTo x · d)⟩
  · rw [Band.setDepthTo_depth]; omega
  · rw [Band.setDepthTo_depth]; omega
  · rw [Band.setDepthTo_depth, Band.setDepthTo_active]
    split
    next => rw [Fin.val_zero]; omega
    next hlt => omega
  · rw [hm] at hb; cases hb

/-- INIT_BAND's depth is in range, and 1 in BIQUAD mode (41_biquad_core.md R122). -/
theorem initDepth_ok {n : Nat} {d : BitVec 4} (h : initDepth m n = .ok d) :
    1 ≤ d.toNat ∧ d.toNat ≤ 10 ∧ (m = .biquad → d = 1) := by
  cases m with
  | biquad => cases h; decide
  | interleaved =>
    obtain ⟨hdn, hn1, hn10⟩ := checkDepth_ok h
    exact ⟨by omega, by omega, nofun⟩

theorem Band.Inv.initialised {n : Nat} {d : BitVec 4} (h : x.Inv m) (t : FilterType) (hd : initDepth m n = .ok d) :
    (x.initialised t d).Inv m := by
  obtain ⟨hd1, hd10, hb⟩ := initDepth_ok hd
  refine ⟨⟨hd1, hd10, hd1, typeCode_le _⟩, fun hm => ⟨hb hm, rfl⟩, h.uniform.of_coefs fun k => ?_⟩
  rw [Band.slot_initialised, Slot.clearHistory_coefs]

theorem Band.Inv.recomputed (h : x.Inv m) (c : Coefs) (fs : F32) : (x.recomputed c fs).Inv m :=
  ⟨h.range, h.single, fun j k => by simp only [Band.coefs_recomputed]⟩

/-- A mode change makes a band single, so that it fits either mode (42_interleaved_bank.md R145). -/
theorem Band.Inv.modeChange (h : x.Inv m) (m' : Mode) : x.modeChange.Inv m' :=
  Band.Single.inv ⟨rfl, rfl⟩ (h.uniform.of_coefs fun k => by rw [Band.slot_modeChange, Slot.clearHistory_coefs])

theorem Band.Inv.write (h : x.Inv m) (r : BandReg) (v : Word) : (x.write r v).Inv m := by
  cases r <;> exact h.congr rfl rfl fun _ => rfl

end

/-- Every operation on a band keeps its invariant. -/
theorem keptByUpdate_inv (m : Mode) : KeptByUpdate m (Band.Inv m) where
  setSlot x _ _ hc h := h.congr rfl rfl fun j => Band.coefs_setSlot x j hc
  incIndex _ h := h.incIndex
  clearHistory x h := h.congr rfl rfl fun k => by rw [Band.slot_clearHistory, Slot.clearHistory_coefs]
  setTypeTo _ _ h := h.congr rfl rfl fun _ => rfl
  setDepthTo _ _ _ hm hd h := h.setDepthTo hm hd
  recomputed _ c fs h := h.recomputed c fs
  initialised _ t _ _ hd h := h.initialised t hd

end Sys2Proof.Machine
end

section
/-! SUPPORT. The results a command may write outside the bands and the sticky bits (spec 10_state.md R30 to R33), and
the frame of every command. -/

namespace Sys2Proof.Machine

/-- `s` with the results of the command `i` as they stand in `t`. -/
def withResults (i : Instr) (s t : State) : State :=
  match i with
  | .processBand _ => { s with outL := t.outL, outR := t.outR }
  | .tick => { s with preL := t.preL, preR := t.preR, outL := t.outL, outR := t.outR }
  | .map => { s with solver := { s.solver with omega := t.solver.omega, alpha := t.solver.alpha } }
  | .solve _ => { s with solver := { s.solver with amp := t.solver.amp, coefs := t.solver.coefs } }
  | _ => s

section
variable {s t : State}

theorem Untouched.lastErr (h : Untouched s t) : t.lastErr = s.lastErr := (congrArg State.lastErr h.rest :)

theorem Untouched.errInfo (h : Untouched s t) : t.errInfo = s.errInfo := (congrArg State.errInfo h.rest :)

theorem Untouched.pslverr (h : Untouched s t) : t.pslverr = s.pslverr := (congrArg State.pslverr h.rest :)

end

/-- A command writes its results, bands, and sticky bits that it sets. -/
theorem untouched_effectOf {i : Instr} {s t : State} (e : EffectOf i s t) : Untouched (withResults i s t) t := by
  cases i with
  | nop => exact (show t = s from e) ▸ Untouched.refl s
  | initBand b ft n =>
    obtain ⟨b', ft', d, -, -, -, rfl⟩ := e
    exact untouched_runInitBand _ _ _ _ _
  | updateBand b =>
    obtain ⟨b', -, rfl⟩ := e
    exact untouched_lazyUpdate _ _ _
  | setType b ft =>
    obtain ⟨b', ft', -, -, -, rfl⟩ := e
    exact untouched_setBand _ _ _
  | setInterleave b n =>
    obtain ⟨b', d, -, -, -, rfl⟩ := e
    exact untouched_setBand _ _ _
  | processBand b =>
    obtain ⟨b', -, rfl⟩ := e
    exact untouched_runProcessBand _ _
  | incrementIndex b =>
    obtain ⟨b', -, -, rfl⟩ := e
    exact untouched_setBand _ _ _
  | resetHistory => exact (show t = runResetHistory s from e) ▸ ⟨rfl, BitVec.and_self⟩
  | tick => exact (show t = runTick Config.build s from e) ▸ untouched_runTick _ _
  | map => exact (show t = runMap Config.build s from e) ▸ Untouched.refl _
  | solve ft =>
    obtain ⟨ft', -, rfl⟩ := e
    exact untouched_noteNonfinite _ _

/-- A refused command takes no result. -/
theorem withResults_refuse (i : Instr) (s : State) (c : Cause) (w : Word) : withResults i s (s.refuse c w) = s := by
  cases i <;> rfl

/-- The registers that can be a result. -/
theorem withResults_eq (i : Instr) (s t : State) : withResults i s t = { s with
    outL := (withResults i s t).outL, outR := (withResults i s t).outR
    preL := (withResults i s t).preL, preR := (withResults i s t).preR
    solver := { s.solver with omega := (withResults i s t).solver.omega, alpha := (withResults i s t).solver.alpha,
                              amp := (withResults i s t).solver.amp, coefs := (withResults i s t).solver.coefs } } := by
  cases i <;> rfl

section
variable {i : Instr} {s t : State}

/-- The frame of a command: outside STATUS, ERRINFO, the bands and the bus answer it writes its results only. -/
theorem exec_frame (e : exec i s = .next t) :
    t = { withResults i s t with sticky := t.sticky, lastErr := t.lastErr, errInfo := t.errInfo, bands := t.bands,
                                 pslverr := t.pslverr } := by
  rcases exec_cases e with ⟨c, rfl⟩ | e
  · rw [withResults_refuse]
    rfl
  · have h := untouched_effectOf e
    rw [h.lastErr, h.errInfo, h.pslverr]
    exact h.rest

/-- The same, with every result of some command open: what is left is what no command writes. -/
theorem exec_frame_all (e : exec i s = .next t) :
    ∃ u : State, t = { s with
      sticky := u.sticky, lastErr := u.lastErr, errInfo := u.errInfo, bands := u.bands, pslverr := u.pslverr
      outL := u.outL, outR := u.outR, preL := u.preL, preR := u.preR
      solver := { s.solver with omega := u.solver.omega, alpha := u.solver.alpha, amp := u.solver.amp,
                                coefs := u.solver.coefs } } := by
  have h := exec_frame e
  rw [withResults_eq] at h
  exact ⟨{ withResults i s t with sticky := t.sticky, lastErr := t.lastErr, errInfo := t.errInfo, bands := t.bands,
                                  pslverr := t.pslverr }, h⟩

theorem exec_mode (e : exec i s = .next t) : t.mode = s.mode := by
  obtain ⟨u, rfl⟩ := exec_frame_all e
  rfl

theorem exec_osf (e : exec i s = .next t) : t.osf = s.osf := by
  obtain ⟨u, rfl⟩ := exec_frame_all e
  rfl

/-- A command sets sticky bits only, and keeps the record of the last refusal unless it is refused itself. -/
theorem exec_record (e : exec i s = .next t) :
    s.sticky &&& t.sticky = s.sticky ∧
      (t.pslverr = true ∨ t.lastErr = s.lastErr ∧ t.errInfo = s.errInfo) := by
  rcases exec_cases e with ⟨c, rfl⟩ | e
  · exact ⟨and_or_left _ _, .inl rfl⟩
  · have h := untouched_effectOf e
    obtain ⟨hsticky, hcode, hinfo⟩ : (withResults i s t).sticky = s.sticky ∧
        (withResults i s t).lastErr = s.lastErr ∧ (withResults i s t).errInfo = s.errInfo := by
      rw [withResults_eq]
      exact ⟨rfl, rfl, rfl⟩
    exact ⟨hsticky ▸ h.sticky, .inr ⟨h.lastErr.trans hcode, h.errInfo.trans hinfo⟩⟩

/-! ## Which command writes which result -/

theorem withResults_out (hp : ∀ b, i ≠ .processBand b) (ht : i ≠ .tick) :
    (withResults i s t).outL = s.outL ∧ (withResults i s t).outR = s.outR := by
  cases i with
  | processBand b => exact absurd rfl (hp b)
  | tick => exact absurd rfl ht
  | _ => exact ⟨rfl, rfl⟩

theorem withResults_pre (ht : i ≠ .tick) :
    (withResults i s t).preL = s.preL ∧ (withResults i s t).preR = s.preR := by
  cases i with
  | tick => exact absurd rfl ht
  | _ => exact ⟨rfl, rfl⟩

theorem withResults_mapped (hm : i ≠ .map) :
    (withResults i s t).solver.omega = s.solver.omega ∧ (withResults i s t).solver.alpha = s.solver.alpha := by
  cases i with
  | map => exact absurd rfl hm
  | _ => exact ⟨rfl, rfl⟩

theorem withResults_solved (hs : ∀ ft, i ≠ .solve ft) :
    (withResults i s t).solver.amp = s.solver.amp ∧ (withResults i s t).solver.coefs = s.solver.coefs := by
  cases i with
  | solve ft => exact absurd rfl (hs ft)
  | _ => exact ⟨rfl, rfl⟩

end

end Sys2Proof.Machine
end

section
/-! SUPPORT. What a band keeps: its staging registers under every command, its coefficients and stored parameters under
all that do not recompute (spec 10_state.md R35, R37, R39). -/

namespace Sys2Proof.Machine

/-- The band has the staging values of `x` (R35). -/
structure Band.SameStaging (x y : Band) : Prop where
  freq : y.freq = x.freq
  gainDb : y.gainDb = x.gainDb
  q : y.q = x.q

/-- The band has the coefficients and the stored parameters of `x` (R37, R39). -/
structure Band.SameSet (x y : Band) : Prop where
  coefs : ∀ k, (y.slot k).coefs = (x.slot k).coefs
  stFs : y.stFs = x.stFs
  stFreq : y.stFreq = x.stFreq
  stGain : y.stGain = x.stGain
  stQ : y.stQ = x.stQ

theorem keptByUpdate_sameStaging (m : Mode) (x : Band) : KeptByUpdate m x.SameStaging where
  setSlot _ _ _ _ h := ⟨h.freq, h.gainDb, h.q⟩
  incIndex _ h := ⟨h.freq, h.gainDb, h.q⟩
  clearHistory _ h := ⟨h.freq, h.gainDb, h.q⟩
  setTypeTo _ _ h := ⟨h.freq, h.gainDb, h.q⟩
  setDepthTo _ _ _ _ _ h := ⟨h.freq, h.gainDb, h.q⟩
  recomputed _ _ _ h := ⟨h.freq, h.gainDb, h.q⟩
  initialised _ _ _ _ _ h := ⟨h.freq, h.gainDb, h.q⟩

theorem Band.SameSet.congr {x y z : Band} (h : x.SameSet y) (hc : ∀ k, (z.slot k).coefs = (y.slot k).coefs)
    (hst : (z.stFs, z.stFreq, z.stGain, z.stQ) = (y.stFs, y.stFreq, y.stGain, y.stQ)) : x.SameSet z := by
  simp only [Prod.mk.injEq] at hst
  obtain ⟨hfs, hfreq, hgain, hq⟩ := hst
  exact ⟨fun k => (hc k).trans (h.coefs k), hfs.trans h.stFs, hfreq.trans h.stFreq, hgain.trans h.stGain,
    hq.trans h.stQ⟩

theorem keptByBank_sameSet (m : Mode) (x : Band) : KeptByBank m x.SameSet where
  setSlot y _ _ hc h := h.congr (Band.coefs_setSlot y · hc) rfl
  incIndex _ h := h.congr (fun _ => rfl) rfl
  clearHistory y h := h.congr (fun k => by rw [Band.slot_clearHistory, Slot.clearHistory_coefs]) rfl
  setTypeTo _ _ h := h.congr (fun _ => rfl) rfl
  setDepthTo y _ d _ _ h := h.congr (Band.coefs_setDepthTo y · d) rfl

section
variable {i : Instr} {s t : State}

theorem exec_sameStaging (e : exec i s = .next t) (b : Fin 5) : (s.band b).SameStaging (t.band b) :=
  allBands_exec (P := fun b => (s.band b).SameStaging) (fun _ => keptByUpdate_sameStaging _ _) e
    (fun _ => ⟨rfl, rfl, rfl⟩) b

theorem exec_sameSet (hi : ¬ Recomputes i) (e : exec i s = .next t) (b : Fin 5) : (s.band b).SameSet (t.band b) :=
  allBands_exec_of_not_recomputes (P := fun b => (s.band b).SameSet) (fun _ => keptByBank_sameSet _ _) hi e
    (fun _ => ⟨fun _ => rfl, rfl, rfl, rfl, rfl⟩) b

/-- A command keeps the invariants (10_state.md R41, R42). -/
theorem exec_inv (h : s.Inv) (e : exec i s = .next t) : t.Inv := by
  obtain ⟨hosf, hbands⟩ := s.inv_iff.1 h
  refine t.inv_iff.2 ⟨by rwa [exec_osf e], ?_⟩
  rw [exec_mode e]
  exact allBands_exec (fun _ => keptByUpdate_inv s.mode) e hbands

end

end Sys2Proof.Machine
end

section
/-! SUPPORT. The address map: where each register stands, that the address decoder finds it there and nothing anywhere
else, and how many there are (spec 20_memory.md R66, R67). -/

namespace Sys2Proof.Machine

/-! ## Offsets -/

theorem globalOffset_bounds (r : GlobalReg) : globalOffset r < 0x400 ∧ globalOffset r % 4 = 0 := by cases r <;> decide

theorem bandOffset_bounds (r : BandReg) : bandOffset r < 0x020 ∧ bandOffset r % 4 = 0 := by cases r <;> decide

theorem slotOffset_bounds (r : SlotReg) : slotOffset r < 0x40 ∧ slotOffset r % 4 = 0 := by cases r <;> decide

theorem find_globalRegs (r : GlobalReg) : globalRegs.find? (fun x => globalOffset x == globalOffset r) = some r := by
  cases r <;> decide

theorem bandRegs_getElem? (r : BandReg) : bandRegs[bandOffset r / 4]? = some r := by cases r <;> rfl

theorem slotRegs_getElem? (r : SlotReg) : slotRegs[slotOffset r / 4]? = some r := by cases r <;> rfl

theorem bandOffset_of_getElem? {n : Nat} {r : BandReg} (h : bandRegs[n]? = some r) : bandOffset r = 4 * n := by
  obtain ⟨hn, rfl⟩ := List.getElem?_eq_some_iff.1 h
  have all : ∀ k : Fin 8, bandOffset bandRegs[k] = 4 * k := by decide
  exact all ⟨n, hn⟩

theorem slotOffset_of_getElem? {n : Nat} {r : SlotReg} (h : slotRegs[n]? = some r) : slotOffset r = 4 * n := by
  obtain ⟨hn, rfl⟩ := List.getElem?_eq_some_iff.1 h
  have all : ∀ k : Fin 14, slotOffset slotRegs[k] = 4 * k := by decide
  exact all ⟨n, hn⟩

/-! ## Addresses -/

theorem Reg.addrNat_lt (r : Reg) : r.addrNat < 0x1800 := by
  cases r with
  | global r =>
    have := globalOffset_bounds r
    simp only [Reg.addrNat]; omega
  | band b r =>
    have := bandOffset_bounds r
    simp only [Reg.addrNat, bandBase]; omega
  | slot b k r =>
    have := slotOffset_bounds r
    simp only [Reg.addrNat, slotBase, bandBase]; omega

theorem Reg.addr_toNat (r : Reg) : r.addr.toNat = r.addrNat :=
  BitVec.toNat_ofNat .. ▸ Nat.mod_eq_of_lt (r.addrNat_lt.trans (by decide))

/-- An aligned address in the block of a band is decoded by its offset. -/
theorem regAt_of_block {a : Addr} {b : Fin 5} {o : Nat} (ha : a.toNat = bandBase b + o) (ho : o < 0x400)
    (h4 : o % 4 = 0) : regAt a = bandRegAt b o := by
  have hb := b.isLt
  unfold bandBase at ha
  have hband : (⟨a.toNat / 0x400 - 1, by omega⟩ : Fin 5) = b := Fin.ext (by simp only; omega)
  rw [regAt, if_neg (by omega), if_neg (by omega), dif_pos (by omega), hband, show a.toNat % 0x400 = o by omega]

theorem bandRegAt_bandOffset (b : Fin 5) (r : BandReg) : bandRegAt b (bandOffset r) = some (.band b r) := by
  rw [bandRegAt, if_pos (bandOffset_bounds r).1, bandRegs_getElem? r]
  rfl

theorem bandRegAt_slotOffset (b : Fin 5) (k : Fin 10) (r : SlotReg) :
    bandRegAt b (0x100 + 0x40 * k.val + slotOffset r) = some (.slot b k r) := by
  have hk := k.isLt
  have hr := (slotOffset_bounds r).1
  have hslot : (⟨(0x100 + 0x40 * k.val + slotOffset r - 0x100) / 0x40, by omega⟩ : Fin 10) = k :=
    Fin.ext (by simp only; omega)
  rw [bandRegAt, if_neg (by omega), dif_pos (by omega), hslot,
    show (0x100 + 0x40 * k.val + slotOffset r - 0x100) % 0x40 = slotOffset r by omega, slotRegs_getElem? r]
  rfl

/-- The address decoder finds every register at its address. -/
theorem regAt_addr (r : Reg) : regAt r.addr = some r := by
  have ha := r.addr_toNat
  cases r with
  | global r =>
    obtain ⟨hlt, h4⟩ := globalOffset_bounds r
    have ha' : (Reg.global r).addr.toNat = globalOffset r := ha
    rw [regAt, if_neg (by omega), if_pos (by omega), ha', find_globalRegs]
    rfl
  | band b r =>
    obtain ⟨hlt, h4⟩ := bandOffset_bounds r
    rw [regAt_of_block ha (by omega) h4, bandRegAt_bandOffset]
  | slot b k r =>
    obtain ⟨hlt, h4⟩ := slotOffset_bounds r
    have hk := k.isLt
    rw [regAt_of_block (b := b) (o := 0x100 + 0x40 * k.val + slotOffset r) (by rw [ha, Reg.addrNat, slotBase]; omega)
      (by omega) (by omega), bandRegAt_slotOffset]

theorem addrNat_of_bandRegAt {b : Fin 5} {o : Nat} {r : Reg} (h : bandRegAt b o = some r) (h4 : o % 4 = 0) :
    r.addrNat = bandBase b + o := by
  unfold bandRegAt at h
  split at h
  next ho =>
    obtain ⟨x, hx, rfl⟩ := Option.map_eq_some_iff.1 h
    have := bandOffset_of_getElem? hx
    simp only [Reg.addrNat]; omega
  next =>
    split at h
    next ho =>
      obtain ⟨x, hx, rfl⟩ := Option.map_eq_some_iff.1 h
      have := slotOffset_of_getElem? hx
      simp only [Reg.addrNat, slotBase]; omega
    next => cases h

/-- The address decoder finds a register at its own address only. -/
theorem addr_of_regAt {a : Addr} {r : Reg} (h : regAt a = some r) : r.addr = a := by
  refine BitVec.eq_of_toNat_eq (r.addr_toNat.trans ?_)
  unfold regAt at h
  split at h
  next => cases h
  next h4 =>
    split at h
    next hlt =>
      obtain ⟨x, hx, rfl⟩ := Option.map_eq_some_iff.1 h
      exact beq_iff_eq.1 (List.find?_some (p := fun g => globalOffset g == a.toNat) hx)
    next hge =>
      split at h
      next hlt =>
        rw [addrNat_of_bandRegAt h (by omega), bandBase]
        simp only; omega
      next => cases h

theorem addrNat_injective : Function.Injective Reg.addrNat := by
  intro r x h
  have haddr : r.addr = x.addr := by rw [Reg.addr, Reg.addr, h]
  exact Option.some.inj (by rw [← regAt_addr r, ← regAt_addr x, haddr])

/-! ## The number of registers -/

/-- The registers of a band and of its ten slots (R67). -/
def blockRegs (b : Fin 5) : List Reg :=
  bandRegs.map (.band b) ++ (List.finRange 10).flatMap fun k => slotRegs.map (.slot b k)

/-- Every register, in address order. -/
def allRegs : List Reg := globalRegs.map .global ++ (List.finRange 5).flatMap blockRegs

theorem mem_allRegs (r : Reg) : r ∈ allRegs := by
  cases r with
  | global r => exact List.mem_append_left _ (List.mem_map_of_mem (by cases r <;> decide))
  | band b r =>
    refine List.mem_append_right _ (List.mem_flatMap.2 ⟨b, List.mem_finRange b, List.mem_append_left _ ?_⟩)
    exact List.mem_map_of_mem (by cases r <;> decide)
  | slot b k r =>
    refine List.mem_append_right _ (List.mem_flatMap.2 ⟨b, List.mem_finRange b, List.mem_append_right _ ?_⟩)
    exact List.mem_flatMap.2 ⟨k, List.mem_finRange k, List.mem_map_of_mem (by cases r <;> decide)⟩

theorem length_blockRegs (b : Fin 5) : (blockRegs b).length = 8 + 10 * 14 := by
  have hband : bandRegs.length = 8 := rfl
  have hslot : slotRegs.length = 14 := rfl
  simp [blockRegs, List.length_flatMap, hband, hslot]

/-- 27 global registers, and five blocks of a band's eight and ten slots' fourteen. -/
theorem length_allRegs : allRegs.length = 767 := by
  have hglobal : globalRegs.length = 27 := rfl
  simp [allRegs, List.length_flatMap, length_blockRegs, hglobal]

/-- The band whose block a register stands in. -/
def Reg.block : Reg → Option (Fin 5)
  | .global _ => none
  | .band b _ => some b
  | .slot b _ _ => some b

theorem block_of_mem_blockRegs {b : Fin 5} {r : Reg} (h : r ∈ blockRegs b) : r.block = some b := by
  simp only [blockRegs, List.mem_append, List.mem_map, List.mem_flatMap] at h
  rcases h with ⟨_, -, rfl⟩ | ⟨_, -, _, -, rfl⟩ <;> rfl

theorem nodup_blockRegs (b : Fin 5) : (blockRegs b).Nodup := by
  refine List.Nodup.append (List.Nodup.map (fun _ _ h => (Reg.band.inj h).2) (by decide)) ?_ ?_
  · refine List.nodup_flatMap.2 ⟨fun k _ => List.Nodup.map (fun _ _ h => (Reg.slot.inj h).2.2) (by decide), ?_⟩
    refine (List.nodup_finRange 10).imp fun hne => List.disjoint_left.2 ?_
    simp only [List.mem_map]
    rintro _ ⟨_, -, rfl⟩ ⟨_, -, h⟩
    exact hne (Reg.slot.inj h).2.1.symm
  · refine List.disjoint_left.2 ?_
    simp only [List.mem_map, List.mem_flatMap]
    rintro _ ⟨_, -, rfl⟩ ⟨_, -, _, -, h⟩
    cases h

/-- No register is counted twice: each block holds the registers of its own band only. -/
theorem nodup_allRegs : allRegs.Nodup := by
  refine List.Nodup.append (List.Nodup.map (fun _ _ h => Reg.global.inj h) (by decide)) ?_ ?_
  · refine List.nodup_flatMap.2 ⟨fun b _ => nodup_blockRegs b, (List.nodup_finRange 5).imp fun hne => ?_⟩
    refine List.disjoint_left.2 fun r hb hd => hne (Option.some.inj ?_)
    rw [← block_of_mem_blockRegs hb, block_of_mem_blockRegs hd]
  · refine List.disjoint_left.2 ?_
    simp only [List.mem_map, List.mem_flatMap]
    rintro _ ⟨_, -, rfl⟩ ⟨b, -, hb⟩
    cases block_of_mem_blockRegs hb

/-- A byte address is mapped exactly where a register stands. -/
theorem isSome_regAt_iff {n : Nat} (hn : n < 8192) :
    (regAt (BitVec.ofNat 13 n)).isSome = true ↔ ∃ r : Reg, r.addrNat = n := by
  have hnat : (BitVec.ofNat 13 n).toNat = n := by rw [BitVec.toNat_ofNat]; exact Nat.mod_eq_of_lt hn
  rw [Option.isSome_iff_exists]
  constructor
  · rintro ⟨r, h⟩
    exact ⟨r, by rw [← r.addr_toNat, addr_of_regAt h, hnat]⟩
  · rintro ⟨r, rfl⟩
    exact ⟨r, regAt_addr r⟩

/-- 767 addresses are mapped: those of the registers, each once. -/
theorem length_mapped : ((List.range 8192).filter (fun n => (regAt (BitVec.ofNat 13 n)).isSome)).length = 767 := by
  have hperm : ((List.range 8192).filter (fun n => (regAt (BitVec.ofNat 13 n)).isSome)).Perm
      (allRegs.map Reg.addrNat) := by
    refine (List.perm_ext_iff_of_nodup (List.nodup_range.filter _) (nodup_allRegs.map addrNat_injective)).2 fun n => ?_
    simp only [List.mem_filter, List.mem_range, List.mem_map, mem_allRegs, true_and]
    constructor
    · rintro ⟨hn, h⟩
      exact (isSome_regAt_iff hn).1 h
    · rintro ⟨r, rfl⟩
      have hlt : r.addrNat < 8192 := r.addrNat_lt.trans (by decide)
      exact ⟨hlt, (isSome_regAt_iff hlt).2 ⟨r, rfl⟩⟩
  rw [hperm.length_eq, List.length_map, length_allRegs]

end Sys2Proof.Machine
end

section
/-! SUPPORT. What a step can do, said once (`step_cases`), and that each of its effects keeps the invariants (spec
20_memory.md R55 to R59, 10_state.md R41, R42). -/

namespace Sys2Proof.Machine

/-- `s` with its next input taken, leaving `rest` to come, and the read answer `p` on the bus without an error. -/
def State.accepted (s : State) (rest : List HostInput) (p : Option Word) : State :=
  { s with pending := rest, prdata := p, pslverr := false }

/-- What one step can make of `s`. -/
inductive StepEffect (s : State) : State → Prop where
  /-- no input is left -/
  | idle : s.pending = [] → StepEffect s s
  /-- a read (R55) -/
  | answered (rest : List HostInput) (r : Reg) : StepEffect s (s.accepted rest (some (s.readReg r)))
  /-- an access refused as BUS_ERR, or a word that is no command (R57; 30_encoding.md R73, R74) -/
  | refused (rest : List HostInput) (p : Option Word) (c : Cause) (info : Word) :
      StepEffect s ((s.accepted rest p).refuse c info)
  /-- a write to a register other than CMD (R56) -/
  | wrote (rest : List HostInput) (r : Reg) (v : Word) : StepEffect s ((s.accepted rest none).writeReg r v)
  /-- a command (R59) -/
  | ran (rest : List HostInput) (i : Instr) {t : State} : exec i (s.accepted rest none) = .next t → StepEffect s t
  /-- `rst_n` low (70_reset_and_hazards.md R200) -/
  | reset (rest : List HostInput) : StepEffect s { State.reset with pending := rest }

section
variable {s t : State} {rest : List HostInput}

theorem stepEffect_busRead (a : Addr) : StepEffect s (busRead a { s with pending := rest }) := by
  unfold busRead
  split
  · exact .answered rest _
  · exact .refused rest (some 0) .busErr (busInfo a)

theorem stepEffect_runCommandWord {w : Word} (h : runCommandWord w (s.accepted rest none) = .next t) :
    StepEffect s t := by
  unfold runCommandWord at h
  split at h
  next i _ => exact .ran rest i h
  next => cases h; exact .refused rest none .badCmd w

theorem stepEffect_busWrite {a : Addr} {v : Word} {strb : BitVec 4}
    (h : busWrite a v strb { s with pending := rest } = .next t) : StepEffect s t := by
  unfold busWrite at h
  split at h
  next => cases h; exact .refused rest none .busErr (busInfo a)
  next r _ =>
    split at h
    · cases h; exact .refused rest none .busErr (busInfo a)
    · split at h
      · exact stepEffect_runCommandWord h
      · cases h; exact .wrote rest r v

/-- A step is idle, answers, refuses, writes a register, runs a command, or resets, and does nothing else. -/
theorem step_cases (h : step s = .next t) : StepEffect s t := by
  unfold step acceptNext at h
  split at h
  next hp => cases h; exact .idle hp
  next x rest hp =>
    cases x with
    | read a => cases h; exact stepEffect_busRead a
    | write a v strb => exact stepEffect_busWrite h
    | reset => cases h; exact .reset rest

/-- A write with all strobes to a register other than CMD (R56). -/
theorem step_write {a : Addr} {v : Word} {r : Reg} (hp : s.pending = .write a v fullStrobe :: rest)
    (ha : regAt a = some r) (hr : r ≠ .global .cmd) : step s = .next ((s.accepted rest none).writeReg r v) := by
  simp only [step, acceptNext, hp, accept, busWrite, ha, ne_eq, not_true_eq_false, if_false, hr]
  rfl

/-! ## The invariants -/

theorem State.Inv.congr (h : s.Inv) (hmode : t.mode = s.mode) (hosf : t.osf = s.osf) (hbands : t.bands = s.bands) :
    t.Inv := by
  obtain ⟨ho, hb⟩ := s.inv_iff.1 h
  refine t.inv_iff.2 ⟨by rwa [hosf], ?_⟩
  rw [hmode]
  exact hb.congr hbands

theorem writtenOsf_le {v : Word} (h : writtenOsf v ≠ 3) : (writtenOsf v).toNat ≤ 2 := by
  have hlt := (writtenOsf v).isLt
  have hne : (writtenOsf v).toNat ≠ 3 := fun e => h (BitVec.eq_of_toNat_eq e)
  omega

/-- A CTRL write stores an OSF of at most 2; a change of mode makes every band single (10_state.md R22). -/
theorem State.Inv.writeCtrl (h : s.Inv) (v : Word) : (s.writeCtrl v).Inv := by
  obtain ⟨-, hb⟩ := s.inv_iff.1 h
  unfold State.writeCtrl
  split
  next => exact h.congr rfl rfl rfl
  next hosf =>
    split
    next => exact (State.inv_iff _).2 ⟨writtenOsf_le hosf, hb⟩
    next => exact (State.inv_iff _).2 ⟨writtenOsf_le hosf, fun b => by
      have e : State.band { s with osf := writtenOsf v, mode := writtenMode v
                                   bands := forEach (fun _ x => x.modeChange) s.bands } b = (s.band b).modeChange :=
        forEach_get _ _ _
      exact e ▸ (hb b).modeChange _⟩

/-- A write to a global register other than CTRL leaves MODE, OSF and the bands alone. -/
theorem State.writeGlobal_bands (s : State) {r : GlobalReg} (hr : r ≠ .ctrl) (v : Word) :
    (s.writeGlobal r v).mode = s.mode ∧ (s.writeGlobal r v).osf = s.osf ∧ (s.writeGlobal r v).bands = s.bands := by
  cases r with
  | ctrl => exact absurd rfl hr
  | _ => exact ⟨rfl, rfl, rfl⟩

theorem State.Inv.writeReg (h : s.Inv) (r : Reg) (v : Word) : (s.writeReg r v).Inv := by
  cases r with
  | global g =>
    by_cases hg : g = .ctrl
    · subst hg
      exact h.writeCtrl v
    · obtain ⟨hmode, hosf, hbands⟩ := s.writeGlobal_bands hg v
      exact h.congr hmode hosf hbands
  | band b r =>
    obtain ⟨hosf, hb⟩ := s.inv_iff.1 h
    exact (State.inv_iff _).2 ⟨hosf, hb.setBand ((hb b).write r v)⟩
  | slot b k r => exact h

end

/-! ## Reset -/

@[simp] theorem State.reset_band (b : Fin 5) : State.reset.band b = Band.reset := by
  simp [State.band, State.reset, Vector.get_eq_getElem]

@[simp] theorem Band.reset_slot (k : Fin 10) : Band.reset.slot k = Slot.reset := by
  simp [Band.slot, Band.reset, Vector.get_eq_getElem]

theorem State.reset_inv : State.reset.Inv := by
  refine State.reset.inv_iff.2 ⟨by decide, fun b => ?_⟩
  rw [State.reset_band]
  exact Band.Single.inv ⟨rfl, rfl⟩ fun j k => by rw [Band.reset_slot, Band.reset_slot]

end Sys2Proof.Machine
end

section
/-! THEOREM. The state: the invariants, the sticky bits and what commands write, the addresses of the registers and
their values after reset (spec 10_state.md). -/

namespace Sys2Proof.Machine

/-- Settles O18, by what a step can do and that each of its effects keeps the invariants. -/
theorem stepKeepsTheInvariants : Obligations.StepKeepsTheInvariants := by
  intro s t h e
  have accepted : ∀ rest p, (s.accepted rest p).Inv := fun _ _ => h.congr rfl rfl rfl
  cases step_cases e with
  | idle => exact h
  | answered rest r => exact accepted rest _
  | refused rest p c info => exact (accepted rest p).congr rfl rfl rfl
  | wrote rest r v => exact (accepted rest none).writeReg r v
  | ran rest i e => exact exec_inv (accepted rest none) e
  | reset rest => exact State.reset_inv.congr rfl rfl rfl

/-- Settles O11, by the write to STATUS as one step. -/
theorem statusWriteClearsOnes : Obligations.StatusWriteClearsOnes := by
  intro s v rest hp
  refine ⟨_, step_write (r := .global .status) hp (by decide) (by decide), fun k hk => ?_, rfl⟩
  simp [State.writeReg, State.writeGlobal, State.accepted, hk]

/-- Settles O25, by the record that every command keeps or makes. -/
theorem commandsClearNoStickyBit : Obligations.CommandsClearNoStickyBit := by
  intro i s t e
  obtain ⟨hsticky, hrecord⟩ := exec_record e
  refine ⟨hsticky, fun _ ht => hrecord.resolve_left ?_⟩
  rw [ht]
  exact Bool.false_ne_true

/-- Settles O27, by the frame of every command and the staging registers that the operations on a band keep. -/
theorem commandsNeverWriteStaging : Obligations.CommandsNeverWriteStaging := by
  intro i s t e
  refine ⟨?_, fun b => ?_, ?_⟩
  · obtain ⟨u, rfl⟩ := exec_frame_all e
    simp [State.readReg, State.readGlobal, State.ctrlWord]
  · have h := exec_sameStaging e b
    simp [State.readReg, Band.read, h.freq, h.gainDb, h.q]
  · obtain ⟨u, rfl⟩ := exec_frame_all e
    rfl

/-- Settles O28, by the frame of every command and what the operations on a band keep but a recomputation. -/
theorem resultsWrittenByTheirCommandsOnly : Obligations.ResultsWrittenByTheirCommandsOnly := by
  intro i s t e
  have frame := exec_frame e
  refine ⟨fun hp ht => ?_, fun ht => ?_, fun hm => ?_, fun hs => ?_, fun hinit hupdate htick b => ?_⟩
  · rw [frame]
    exact withResults_out hp ht
  · rw [frame]
    exact withResults_pre ht
  · rw [frame]
    exact withResults_mapped hm
  · rw [frame]
    exact withResults_solved hs
  · have hi : ¬ Recomputes i := by
      cases i with
      | initBand b ft n => exact absurd rfl (hinit b ft n)
      | updateBand b => exact absurd rfl (hupdate b)
      | tick => exact absurd rfl htick
      | _ => exact id
    have h := exec_sameSet hi e b
    refine ⟨h.coefs, ?_⟩
    simp [State.readReg, Band.read, h.stFs, h.stFreq, h.stGain, h.stQ]

/-- Settles O6, by the offsets of the registers in the blocks of the address map, and a count of the registers. -/
theorem registerAddressesDecode : Obligations.RegisterAddressesDecode := by
  refine ⟨fun r => ?_, fun b r => ?_, fun b k r => ?_, regAt_addr, fun _ _ => addr_of_regAt, length_mapped⟩
  · cases r <;> rfl
  · rw [Reg.addr_toNat]
    cases r <;> rfl
  · rw [Reg.addr_toNat]
    cases r <;> rfl

/-- Settles O13, by the reset band and the reset slot, register by register. -/
theorem resetRegisterValues : Obligations.ResetRegisterValues := by
  intro r
  cases r with
  | global r => cases r <;> rfl
  | band b r =>
    rw [State.readReg, State.reset_band]
    cases r <;> rfl
  | slot b k r =>
    rw [State.readReg, State.reset_band, Band.reset_slot]
    cases r <;> rfl

/-- Settles O19: every band is single and every slot the same after reset. -/
theorem resetMeetsTheInvariants : Obligations.ResetMeetsTheInvariants :=
  State.reset_inv

end Sys2Proof.Machine
end

section
/-! SUPPORT. The register bus: what a read, a refused access and a command write answer (spec 20_memory.md R55, R57,
R59), what a register reads as after a write to a register (R56), and the fields of a word read (10_state.md R22, R23,
R36). -/

namespace Sys2Proof.Machine

/-! ## One transaction -/

section
variable {s : State} {rest : List HostInput}

/-- No register stands at a misaligned address, nor at one that is the address of none. -/
theorem regAt_eq_none {a : Addr} (h : (¬ ∃ r : Reg, r.addr = a) ∨ a.toNat % 4 ≠ 0) : regAt a = none := by
  rcases h with hnone | hmisaligned
  · exact Option.eq_none_iff_forall_ne_some.2 fun r hr => hnone ⟨r, addr_of_regAt hr⟩
  · exact if_pos hmisaligned

/-- A read of a register (R55). -/
theorem step_read {a : Addr} {r : Reg} (hp : s.pending = .read a :: rest) (ha : regAt a = some r) :
    step s = .next (s.accepted rest (some (s.readReg r))) := by
  simp only [step, acceptNext, hp, accept, busRead, ha]
  rfl

/-- A read where no register stands (R57). -/
theorem step_read_unmapped {a : Addr} (hp : s.pending = .read a :: rest) (ha : regAt a = none) :
    step s = .next ((s.accepted rest (some 0)).refuse .busErr (busInfo a)) := by
  simp only [step, acceptNext, hp, accept, busRead, ha]
  rfl

/-- A write where no register stands, or without all strobes (R57). -/
theorem step_write_refused {a : Addr} {v : Word} {strb : BitVec 4} (hp : s.pending = .write a v strb :: rest)
    (h : regAt a = none ∨ strb ≠ fullStrobe) :
    step s = .next ((s.accepted rest none).refuse .busErr (busInfo a)) := by
  simp only [step, acceptNext, hp, accept, busWrite]
  cases ha : regAt a with
  | none => rfl
  | some r =>
    have hstrb : strb ≠ fullStrobe := h.resolve_left (by simp [ha])
    simp only [hstrb, ne_eq, not_false_eq_true, if_true]
    rfl

/-- A write of a command's word to CMD (R59). -/
theorem step_command {w : Word} {i : Instr} (hp : s.pending = .write cmdAddr w fullStrobe :: rest)
    (hw : decode w = .ok i) : step s = exec i (s.accepted rest none) := by
  have hcmd : regAt cmdAddr = some (.global .cmd) := by decide
  simp only [step, acceptNext, hp, accept, busWrite, hcmd, ne_eq, not_true_eq_false, if_false, if_true, runCommandWord,
    hw]
  rfl

end

/-! ## Reading a register after a write -/

section
variable (s : State) (v : Word)

theorem State.readGlobal_writeGlobal {r : GlobalReg} (h : (Reg.global r).plainRW = true) (r' : GlobalReg) :
    (s.writeGlobal r v).readGlobal r' = if r' = r then v else s.readGlobal r' := by
  cases r with
  | sampleRate | inGainDb | outGainDb | wetMix | inL | inR | solveFs | solveFreq | solveQ | solveGain | solveOmega
  | solveAlpha => cases r' <;> rfl
  | _ => cases h

theorem Band.read_write (x : Band) {b : Fin 5} {r : BandReg} (h : (Reg.band b r).plainRW = true) (r' : BandReg) :
    (x.write r v).read r' = if r' = r then v else x.read r' := by
  cases r with
  | freq | gainDb | q => cases r' <;> rfl
  | _ => cases h

@[simp] theorem Band.slot_write (x : Band) (r : BandReg) (k : Fin 10) : (x.write r v).slot k = x.slot k := by
  cases r <;> rfl

/-- A write to a plain read/write register stores the data there, and every other register reads as before (R56). -/
theorem State.readReg_writeReg {r : Reg} (h : r.plainRW = true) (r' : Reg) :
    (s.writeReg r v).readReg r' = if r' = r then v else s.readReg r' := by
  cases r with
  | global r =>
    have hctrl : r ≠ .ctrl := by rintro rfl; cases h
    have hband : ∀ d, (s.writeGlobal r v).band d = s.band d := fun d =>
      congrArg (·.get d) (s.writeGlobal_bands hctrl v).2.2
    cases r' with
    | global r' => simpa [State.writeReg, State.readReg] using State.readGlobal_writeGlobal s v h r'
    | band d r' => simp [State.writeReg, State.readReg, hband]
    | slot d k r' => simp [State.writeReg, State.readReg, hband]
  | band b r =>
    cases r' with
    | global r' => cases r' <;> rfl
    | band d r' =>
      by_cases hd : d = b
      · subst hd
        simp [State.writeReg, State.readReg, Band.read_write v _ h]
      · simp [State.writeReg, State.readReg, State.band_setBand_ne s _ hd, hd]
    | slot d k r' =>
      by_cases hd : d = b
      · subst hd
        simp [State.writeReg, State.readReg]
      · simp [State.writeReg, State.readReg, State.band_setBand_ne s _ hd]
  | slot b k r => cases h

/-- A write to a plain read/write register leaves the inputs to come and `pslverr` alone. -/
theorem State.writeReg_bus {r : Reg} (h : r.plainRW = true) :
    (s.writeReg r v).pending = s.pending ∧ (s.writeReg r v).pslverr = s.pslverr := by
  cases r with
  | global r =>
    cases r with
    | ctrl => cases h
    | _ => exact ⟨rfl, rfl⟩
  | band b r => exact ⟨rfl, rfl⟩
  | slot b k r => cases h

/-- A write to a read-only register has no effect (R56). -/
theorem State.writeReg_readOnly {r : Reg} (h : r.readOnly = true) : s.writeReg r v = s := by
  cases r with
  | global r =>
    cases r with
    | errInfo | outL | outR | preL | preR | solveAmp | solveB0 | solveB1 | solveB2 | solveA0 | solveA1 | solveA2 => rfl
    | _ => cases h
  | band b r =>
    cases r with
    | bandStat | stFs | stFreq | stGain | stQ => exact s.setBand_band b
    | _ => cases h
  | slot b k r => rfl

end

/-! ## The fields of a word read -/

/-- The field between a high and a low part of a word. -/
theorem extractLsb'_append_middle {m n k : Nat} (hi : BitVec m) (x : BitVec n) (lo : BitVec k) :
    (hi ++ x ++ lo).extractLsb' k n = x := by
  rw [BitVec.extractLsb'_append_eq_of_le le_rfl, Nat.sub_self, BitVec.extractLsb'_append_eq_right]

/-- A field above the low part of a word is a field of the high part. -/
theorem extractLsb'_append_high {m k : Nat} (hi : BitVec m) (lo : BitVec k) (i n : Nat) :
    (hi ++ lo).extractLsb' (k + i) n = hi.extractLsb' i n := by
  rw [BitVec.extractLsb'_append_eq_of_le (Nat.le_add_right k i), Nat.add_sub_cancel_left]

/-- A bit of a word is the field of that one bit. -/
theorem getLsbD_eq_extractLsb' {m : Nat} (w : BitVec m) (i : Nat) : w.getLsbD i = (w.extractLsb' i 1).getLsbD 0 := by
  simp

/-- The fields of CTRL (10_state.md R22). -/
theorem State.ctrlWord_fields (s : State) :
    s.ctrlWord.getLsbD 0 = (s.mode == .interleaved) ∧ s.ctrlWord.extractLsb' 1 2 = s.osf ∧
    s.ctrlWord.extractLsb' 3 29 = 0 := by
  have hmode : s.ctrlWord.extractLsb' 0 1 = modeBit s.mode := BitVec.extractLsb'_append_eq_right
  refine ⟨?_, extractLsb'_append_middle _ _ _,
    (extractLsb'_append_high _ _ 2 29).trans BitVec.extractLsb'_append_eq_left⟩
  rw [getLsbD_eq_extractLsb', hmode]
  cases s.mode <;> rfl

/-- The fields of STATUS (10_state.md R23). -/
theorem State.statusWord_fields (s : State) :
    s.statusWord.extractLsb' 0 8 = s.sticky ∧ s.statusWord.extractLsb' 8 4 = s.lastErr ∧
    s.statusWord.extractLsb' 12 20 = 0 :=
  ⟨BitVec.extractLsb'_append_eq_right, extractLsb'_append_middle _ _ _,
    (extractLsb'_append_high _ _ 4 20).trans BitVec.extractLsb'_append_eq_left⟩

/-- The fields of BAND_STAT (10_state.md R36). -/
theorem Band.statWord_fields (x : Band) :
    (x.statWord.extractLsb' 0 3).toNat = typeCode x.ftype ∧ x.statWord.extractLsb' 3 1 = 0 ∧
    x.statWord.extractLsb' 4 4 = x.depth ∧ (x.statWord.extractLsb' 8 4).toNat = x.active.val ∧
    x.statWord.getLsbD 12 = x.dirty ∧ x.statWord.extractLsb' 13 19 = 0 := by
  have htype : x.statWord.extractLsb' 0 3 = BitVec.ofNat 3 (typeCode x.ftype) := BitVec.extractLsb'_append_eq_right
  have above : ∀ i n, x.statWord.extractLsb' (4 + i) n =
      (0#19 ++ BitVec.ofBool x.dirty ++ BitVec.ofNat 4 x.active.val ++ x.depth).extractLsb' i n := fun i n =>
    (congrArg (x.statWord.extractLsb' · n) (Nat.add_assoc 3 1 i)).trans
      ((extractLsb'_append_high _ _ (1 + i) n).trans (extractLsb'_append_high _ _ i n))
  have hactive : x.statWord.extractLsb' 8 4 = BitVec.ofNat 4 x.active.val :=
    (above 4 4).trans (extractLsb'_append_middle _ _ _)
  have hdirty : x.statWord.extractLsb' 12 1 = BitVec.ofBool x.dirty :=
    (above 8 1).trans ((extractLsb'_append_high _ _ 4 1).trans (extractLsb'_append_middle _ _ _))
  refine ⟨?_, extractLsb'_append_middle _ _ _, (above 0 4).trans BitVec.extractLsb'_append_eq_right, ?_, ?_,
    (above 9 19).trans ((extractLsb'_append_high _ _ 5 19).trans
      ((extractLsb'_append_high _ _ 1 19).trans BitVec.extractLsb'_append_eq_left))⟩
  · rw [htype, BitVec.toNat_ofNat, Nat.mod_eq_of_lt ((typeCode_le x.ftype).trans_lt (by decide))]
  · rw [hactive, BitVec.toNat_ofNat, Nat.mod_eq_of_lt (x.active.isLt.trans (by decide))]
  · rw [getLsbD_eq_extractLsb', hdirty]
    cases x.dirty <;> rfl

end Sys2Proof.Machine
end

section
/-! THEOREM. The register space and the bus: reads, refused accesses, writes by access type, and the command write
(spec 20_memory.md R55 to R59). -/

namespace Sys2Proof.Machine

/-- Settles O8: the decoder finds no register there, or a strobe is missing, and either is refused as BUS_ERR. -/
theorem refusedAccessRecordsBusErr : Obligations.RefusedAccessRecordsBusErr := by
  refine ⟨fun s a rest hp ha => step_read_unmapped hp (regAt_eq_none ha), fun s a v strb rest hp h => ?_⟩
  have hrefused : regAt a = none ∨ strb ≠ fullStrobe := by
    rcases h with hnone | hmisaligned | hstrb
    · exact .inl (regAt_eq_none (.inl hnone))
    · exact .inl (regAt_eq_none (.inr hmisaligned))
    · exact .inr hstrb
  exact ⟨_, step_write_refused hp hrefused, rfl⟩

/-- Settles O9, by what every register reads as after the write. -/
theorem plainWriteStoresTheData : Obligations.PlainWriteStoresTheData := by
  intro s r v rest hr hp
  have hcmd : r ≠ .global .cmd := by rintro rfl; cases hr
  obtain ⟨hpending, hpslverr⟩ := State.writeReg_bus (s.accepted rest none) v hr
  refine ⟨_, step_write hp (regAt_addr r) hcmd, ?_, fun q hq => ?_, hpending, hpslverr⟩
  · rw [State.readReg_writeReg _ v hr, if_pos rfl]
  · rw [State.readReg_writeReg _ v hr, if_neg hq]
    rfl

/-- Settles O7, by the read as one step and the fields of the words read. -/
theorem readAnswersTheRegister : Obligations.ReadAnswersTheRegister := by
  refine ⟨fun s a r rest => step_read, fun s a rest hp ha => ⟨_, step_read_unmapped hp ha, rfl, rfl⟩, fun s => ?_,
    fun s b => (s.band b).statWord_fields, fun s => ⟨rfl, rfl⟩, fun s b k => ⟨rfl, rfl⟩⟩
  obtain ⟨hmode, hosf, hreserved⟩ := s.ctrlWord_fields
  exact ⟨hmode, hosf, hreserved, s.statusWord_fields⟩

/-- Settles O10: the write is one step, and the register ignores it. -/
theorem readOnlyWriteIsIgnored : Obligations.ReadOnlyWriteIsIgnored := by
  intro s r v rest hr hp
  have hcmd : r ≠ .global .cmd := by rintro rfl; cases hr
  rw [step_write hp (regAt_addr r) hcmd, State.writeReg_readOnly _ v hr]
  rfl

/-- Settles O16, by the write of a command's word as one step. -/
theorem stepRunsTheDecodedCommand : Obligations.StepRunsTheDecodedCommand :=
  fun _ _ _ _ hp hw _ => step_command hp hw

end Sys2Proof.Machine
end

section
/-! SUPPORT. The command word by its fields (spec 30_encoding.md R70, R71), the rows of the opcode map (R72), and the
decoder by the rows: a word matches a row exactly where it is the word of the command that the row reads from it (R74),
and it matches one row at most (R79). -/

namespace Sys2Proof

open Machine (extractLsb'_append_middle extractLsb'_append_high)

/-! ## Fields -/

/-- A word is its OPC, BAND, TYPE, DEPTH and RSV fields (R70). -/
theorem word_eq_append_fields (w : Word) :
    w = w.extractLsb' 24 8 ++ w.extractLsb' 20 4 ++ w.extractLsb' 16 4 ++ w.extractLsb' 12 4 ++ w.extractLsb' 0 12 := by
  rw [BitVec.extractLsb'_append_extractLsb'_eq_extractLsb' (start₂ := 24) (len₁ := 4) rfl,
    BitVec.extractLsb'_append_extractLsb'_eq_extractLsb' (start₂ := 20) (len₁ := 4) rfl,
    BitVec.extractLsb'_append_extractLsb'_eq_extractLsb' (start₂ := 16) (len₁ := 4) rfl,
    BitVec.extractLsb'_append_extractLsb'_eq_extractLsb' (start₂ := 12) (len₁ := 12) rfl]
  exact BitVec.extractLsb'_eq_self.symm

/-- The fields of five parts put together (R70). -/
theorem extractLsb'_append_fields (opc : BitVec 8) (b t n : BitVec 4) (rsv : BitVec 12) :
    (opc ++ b ++ t ++ n ++ rsv).extractLsb' 24 8 = opc ∧ (opc ++ b ++ t ++ n ++ rsv).extractLsb' 20 4 = b ∧
    (opc ++ b ++ t ++ n ++ rsv).extractLsb' 16 4 = t ∧ (opc ++ b ++ t ++ n ++ rsv).extractLsb' 12 4 = n ∧
    (opc ++ b ++ t ++ n ++ rsv).extractLsb' 0 12 = rsv := by
  refine ⟨?_, ?_, ?_, extractLsb'_append_middle _ _ _, BitVec.extractLsb'_append_eq_right⟩
  · rw [extractLsb'_append_high (k := 12) _ _ 12, extractLsb'_append_high (k := 4) _ _ 8,
      extractLsb'_append_high (k := 4) _ _ 4, BitVec.extractLsb'_append_eq_left]
  · rw [extractLsb'_append_high (k := 12) _ _ 8, extractLsb'_append_high (k := 4) _ _ 4, extractLsb'_append_middle]
  · rw [extractLsb'_append_high (k := 12) _ _ 4, extractLsb'_append_middle]

theorem append_fields_inj_iff {opc opc' : BitVec 8} {b t n b' t' n' : BitVec 4} {rsv rsv' : BitVec 12} :
    opc ++ b ++ t ++ n ++ rsv = opc' ++ b' ++ t' ++ n' ++ rsv' ↔
      opc = opc' ∧ b = b' ∧ t = t' ∧ n = n' ∧ rsv = rsv' := by
  constructor
  · intro h
    obtain ⟨hopc, hb, ht, hn, hrsv⟩ := extractLsb'_append_fields opc b t n rsv
    rw [h] at hopc hb ht hn hrsv
    simp only [extractLsb'_append_fields] at hopc hb ht hn hrsv
    exact ⟨hopc.symm, hb.symm, ht.symm, hn.symm, hrsv.symm⟩
  · rintro ⟨rfl, rfl, rfl, rfl, rfl⟩
    rfl

/-- Masking a word masks each of its fields. -/
theorem and_append_fields (opc opc' : BitVec 8) (b t n b' t' n' : BitVec 4) (rsv rsv' : BitVec 12) :
    (opc ++ b ++ t ++ n ++ rsv : Word) &&& (opc' ++ b' ++ t' ++ n' ++ rsv') =
      (opc &&& opc') ++ (b &&& b') ++ (t &&& t') ++ (n &&& n') ++ (rsv &&& rsv') :=
  BitVec.and_append.trans (by rw [BitVec.and_append, BitVec.and_append, BitVec.and_append])

@[simp] theorem fieldBand_assemble (opc : BitVec 8) (b t n : Nat) : fieldBand (assemble opc b t n) = b % 16 := by
  simp only [fieldBand, assemble, extractLsb'_append_fields, BitVec.toNat_ofNat, Nat.reducePow]

@[simp] theorem fieldType_assemble (opc : BitVec 8) (b t n : Nat) : fieldType (assemble opc b t n) = t % 16 := by
  simp only [fieldType, assemble, extractLsb'_append_fields, BitVec.toNat_ofNat, Nat.reducePow]

@[simp] theorem fieldDepth_assemble (opc : BitVec 8) (b t n : Nat) : fieldDepth (assemble opc b t n) = n % 16 := by
  simp only [fieldDepth, assemble, extractLsb'_append_fields, BitVec.toNat_ofNat, Nat.reducePow]

theorem fieldBand_lt (w : Word) : fieldBand w < 16 := (w.extractLsb' 20 4).isLt

theorem fieldType_lt (w : Word) : fieldType w < 16 := (w.extractLsb' 16 4).isLt

theorem fieldDepth_lt (w : Word) : fieldDepth w < 16 := (w.extractLsb' 12 4).isLt

/-! ## Rows -/

/-- What a row's mask holds for a 4-bit field: no bit where its command uses the field, all of it where not (R74). -/
def unusedMask (used : Bool) : BitVec 4 := if used then 0x0 else 0xF

/-- The mask of a row, from which of BAND, TYPE and DEPTH its command uses (R72). -/
def rowMask (band ftype depth : Bool) : Word :=
  0xFF#8 ++ unusedMask band ++ unusedMask ftype ++ unusedMask depth ++ 0xFFF#12

/-- A field passes its mask exactly where it is the operand, which is zero for a field the command does not use. -/
theorem and_unusedMask_eq_zero_iff (used : Bool) (x : BitVec 4) :
    x &&& unusedMask used = 0 ↔ BitVec.ofNat 4 (if used then x.toNat else 0) = x := by
  cases used with
  | true => simp [unusedMask]
  | false =>
    have hall : x &&& unusedMask false = x := BitVec.and_allOnes
    rw [hall]
    exact eq_comm

/-- A word passes the mask of a row and has its OPC exactly where it is that OPC with the fields the row uses. -/
theorem and_rowMask_eq_iff (w : Word) (opc : BitVec 8) (band ftype depth : Bool) :
    w &&& rowMask band ftype depth = assemble opc 0 0 0 ↔
      assemble opc (if band then fieldBand w else 0) (if ftype then fieldType w else 0)
        (if depth then fieldDepth w else 0) = w := by
  obtain ⟨o, b, t, n, r, rfl⟩ : ∃ o b t n r, w = o ++ b ++ t ++ n ++ r := ⟨_, _, _, _, _, word_eq_append_fields w⟩
  simp only [rowMask, assemble, fieldBand, fieldType, fieldDepth, extractLsb'_append_fields, and_append_fields,
    append_fields_inj_iff]
  have hopc : o &&& 0xFF#8 = opc ↔ opc = o := by
    rw [show o &&& 0xFF#8 = o from BitVec.and_allOnes]
    exact eq_comm
  have hrsv : r &&& 0xFFF#12 = 0#12 ↔ 0#12 = r := by
    rw [show r &&& 0xFFF#12 = r from BitVec.and_allOnes]
    exact eq_comm
  exact and_congr hopc (and_congr (and_unusedMask_eq_zero_iff band b) (and_congr (and_unusedMask_eq_zero_iff ftype t)
    (and_congr (and_unusedMask_eq_zero_iff depth n) hrsv)))

/-- A word matches a row exactly where it is the word of the command that the row reads from it (R74). -/
theorem fits_iff_encode_build {r : OpRow} (hr : r ∈ opRows) (w : Word) :
    r.fits w = true ↔ encode (r.build w) = w := by
  simp only [opRows, List.mem_cons, List.not_mem_nil, or_false] at hr
  unfold OpRow.fits
  rw [beq_iff_eq]
  rcases hr with rfl | rfl | rfl | rfl | rfl | rfl | rfl | rfl | rfl | rfl | rfl
  · exact and_rowMask_eq_iff w 0x00 false false false
  · exact and_rowMask_eq_iff w 0x01 true true true
  · exact and_rowMask_eq_iff w 0x02 true false false
  · exact and_rowMask_eq_iff w 0x03 true true false
  · exact and_rowMask_eq_iff w 0x04 true false true
  · exact and_rowMask_eq_iff w 0x05 true false false
  · exact and_rowMask_eq_iff w 0x06 true false false
  · exact and_rowMask_eq_iff w 0x07 false false false
  · exact and_rowMask_eq_iff w 0x08 false false false
  · exact and_rowMask_eq_iff w 0x09 false false false
  · exact and_rowMask_eq_iff w 0x0A false true false

/-- A row reads operands of 4 bits from any word (R71). -/
theorem build_wellFormed {r : OpRow} (hr : r ∈ opRows) (w : Word) : (r.build w).WellFormed := by
  simp only [opRows, List.mem_cons, List.not_mem_nil, or_false] at hr
  rcases hr with rfl | rfl | rfl | rfl | rfl | rfl | rfl | rfl | rfl | rfl | rfl <;>
    simp [Instr.WellFormed, Instr.wellFormedB, FitsField, fieldBand_lt, fieldType_lt, fieldDepth_lt]

/-- Some row reads a well-formed command from its word (R72). -/
theorem exists_row_build_encode {i : Instr} (h : i.WellFormed) : ∃ r ∈ opRows, r.build (encode i) = i := by
  cases i with
  | nop | resetHistory | tick | map => simp [opRows]
  | initBand b t n =>
    simp only [Instr.WellFormed, Instr.wellFormedB, Bool.and_eq_true, decide_eq_true_eq] at h
    obtain ⟨⟨hb, ht⟩, hn⟩ := h
    simp [opRows, encode, Nat.mod_eq_of_lt hb, Nat.mod_eq_of_lt ht, Nat.mod_eq_of_lt hn]
  | setType b x | setInterleave b x =>
    simp only [Instr.WellFormed, Instr.wellFormedB, Bool.and_eq_true, decide_eq_true_eq] at h
    obtain ⟨hb, hx⟩ := h
    simp [opRows, encode, Nat.mod_eq_of_lt hb, Nat.mod_eq_of_lt hx]
  | updateBand x | processBand x | incrementIndex x | solve x =>
    have hx : x < 16 := of_decide_eq_true h
    simp [opRows, encode, Nat.mod_eq_of_lt hx]

/-- A word that matches a row has its opcode, because every mask covers OPC. -/
theorem fieldOpc_of_fits {r : OpRow} (hr : r ∈ opRows) {w : Word} (hw : r.fits w = true) :
    fieldOpc w = fieldOpc r.fixed := by
  have hcovers : ∀ q ∈ opRows, q.mask.extractLsb' 24 8 = BitVec.allOnes 8 := by decide
  have hfits : w &&& r.mask = r.fixed := beq_iff_eq.1 hw
  rw [fieldOpc, fieldOpc, ← hfits, BitVec.extractLsb'_and, hcovers r hr, BitVec.and_allOnes]

/-- No two rows have the same opcode (R72). -/
theorem opRows_fieldOpc_nodup : (opRows.map fun r => fieldOpc r.fixed).Nodup := by decide

/-- A word matches one row at most (R79). -/
theorem eq_of_fits {r q : OpRow} (hr : r ∈ opRows) (hq : q ∈ opRows) {w : Word} (hrw : r.fits w = true)
    (hqw : q.fits w = true) : q = r :=
  List.inj_on_of_nodup_map opRows_fieldOpc_nodup hq hr
    ((fieldOpc_of_fits hq hqw).symm.trans (fieldOpc_of_fits hr hrw))

/-- A word with a reserved opcode matches no row (R73). -/
theorem not_fits_of_reserved {w : Word} (h : 0x0B ≤ fieldOpc w) {r : OpRow} (hr : r ∈ opRows) : r.fits w = false := by
  have hopc : ∀ q ∈ opRows, fieldOpc q.fixed < 0x0B := by decide
  refine Bool.eq_false_iff.2 fun hw => ?_
  have := hopc r hr
  rw [← fieldOpc_of_fits hr hw] at this
  omega

/-! ## The decoder -/

/-- The row that the decoder finds is a row of the map that the word matches. -/
theorem row_of_find {w : Word} {r : OpRow} (h : opRows.find? (fun q => q.fits w) = some r) :
    r ∈ opRows ∧ r.fits w = true :=
  ⟨List.mem_of_find?_eq_some h, List.find?_some (p := fun q : OpRow => q.fits w) h⟩

/-- The decoder reads the command of a row that the word matches. -/
theorem exists_row_of_decode {w : Word} {i : Instr} (h : decode w = .ok i) :
    ∃ r ∈ opRows, r.fits w = true ∧ r.build w = i := by
  unfold decode at h
  split at h
  next r hr =>
    cases h
    obtain ⟨hmem, hfits⟩ := row_of_find hr
    exact ⟨r, hmem, hfits, rfl⟩
  next => split at h <;> cases h

/-- A word that matches a row decodes to that row's command, as it matches no other row. -/
theorem decode_of_fits {r : OpRow} (hr : r ∈ opRows) {w : Word} (hw : r.fits w = true) : decode w = .ok (r.build w) := by
  unfold decode
  split
  next q hq =>
    obtain ⟨hmem, hfits⟩ := row_of_find hq
    rw [eq_of_fits hr hmem hw hfits]
  next hnone => exact absurd hw (List.find?_eq_none.1 hnone r hr)

/-- A word that matches no row is no command. -/
theorem exists_decode_error {w : Word} (h : ∀ r ∈ opRows, r.fits w = false) : ∃ e, decode w = .error e := by
  cases hw : decode w with
  | error e => exact ⟨e, rfl⟩
  | ok i =>
    obtain ⟨r, hr, hfits, -⟩ := exists_row_of_decode hw
    rw [h r hr] at hfits
    cases hfits

end Sys2Proof
end

section
/-! SUPPORT. How a command is refused: a word that is no command (spec 30_encoding.md R73, R74), and the first check of
the operands that fails (R75, 60_exceptions.md R184). -/

namespace Sys2Proof.Machine

/-- A word written to CMD runs as a command word once its input is taken (30_encoding.md R70). -/
theorem step_eq_runCommandWord {s : State} {rest : List HostInput} {w : Word}
    (hp : s.pending = .write cmdAddr w fullStrobe :: rest) : step s = runCommandWord w (s.accepted rest none) := by
  have hcmd : regAt cmdAddr = some (.global .cmd) := by decide
  simp only [step, acceptNext, hp, accept, busWrite, hcmd, ne_eq, not_true_eq_false, if_false, if_true]
  rfl

/-- A write to CMD of a word that matches no row is refused as BAD_CMD (30_encoding.md R79). -/
theorem step_badCmd {s : State} {rest : List HostInput} {w : Word}
    (hp : s.pending = .write cmdAddr w fullStrobe :: rest) (hw : ∀ r ∈ opRows, r.fits w = false) :
    step s = .next ((s.accepted rest none).refuse .badCmd w) := by
  obtain ⟨e, he⟩ := exists_decode_error hw
  rw [step_eq_runCommandWord hp, runCommandWord, he]

/-- A command whose checks end in a cause is refused with that cause and its word (60_exceptions.md R183). -/
theorem exec_eq_refuse {i : Instr} {s : State} {r : Except Cause State} (c : Cause)
    (hi : exec i s = .next (s.finish i r)) (hr : r = .error c) : exec i s = .next (s.refuse c (encode i)) := by
  rw [hi, hr, State.finish_error]

end Sys2Proof.Machine
end

section
/-! THEOREM. The encoding: decode and encode agree both ways, the decoder is total, and what it or the operand checks
refuse (spec 30_encoding.md R70 to R79, 60_exceptions.md R181, R184). -/

namespace Sys2Proof.Machine

/-- Settles O1: a row reads the command from its word, so the word matches that row. -/
theorem decodeOfEncode : Obligations.DecodeOfEncode := by
  intro i hi
  obtain ⟨r, hr, hbuild⟩ := exists_row_build_encode hi
  have hfits : r.fits (encode i) = true := (fits_iff_encode_build hr _).2 (by rw [hbuild])
  rw [decode_of_fits hr hfits, hbuild]

/-- Settles O2, by the row that the word matches. -/
theorem encodeOfDecode : Obligations.EncodeOfDecode := by
  intro w i hw
  obtain ⟨r, hr, hfits, rfl⟩ := exists_row_of_decode hw
  exact ⟨build_wellFormed hr w, (fits_iff_encode_build hr w).1 hfits⟩

/-- Settles O3: two rows that match are one, and a word that matches none is refused by the write to CMD. -/
theorem wordFitsOneRowOrIsBadCmd : Obligations.WordFitsOneRowOrIsBadCmd := by
  intro w
  by_cases h : ∃ r ∈ opRows, r.fits w = true
  · obtain ⟨r, hr, hfits⟩ := h
    exact .inl ⟨r, hr, hfits, fun q hq => eq_of_fits hr hq hfits, decode_of_fits hr hfits⟩
  · have hnone : ∀ r ∈ opRows, r.fits w = false := fun r hr => Bool.eq_false_iff.2 fun hfits => h ⟨r, hr, hfits⟩
    exact .inr ⟨hnone, fun s rest hp => ⟨_, step_badCmd hp hnone, rfl⟩⟩

/-- Settles O4: a word with a reserved opcode matches no row. -/
theorem reservedOpcodeIsBadCmd : Obligations.ReservedOpcodeIsBadCmd :=
  fun _ _ _ hopc hp => ⟨_, step_badCmd hp fun _ => not_fits_of_reserved hopc, rfl⟩

/-- Settles O5: each word is the encoding of its command, which decodes back. -/
theorem commandWordsDecode : Obligations.CommandWordsDecode :=
  ⟨decodeOfEncode .nop rfl, decodeOfEncode (.initBand 2 4 3) rfl, decodeOfEncode (.updateBand 4) rfl,
    decodeOfEncode (.setType 1 6) rfl, decodeOfEncode (.setInterleave 0 10) rfl, decodeOfEncode (.processBand 5) rfl,
    decodeOfEncode (.incrementIndex 3) rfl, decodeOfEncode .resetHistory rfl, decodeOfEncode .tick rfl,
    decodeOfEncode .map rfl, decodeOfEncode (.solve 6) rfl⟩

/-- Settles O20: the check of BAND is the first of each of these commands. -/
theorem bandAboveFourIsBadBand : Obligations.BandAboveFourIsBadBand := by
  intro s b t n hb i hi
  simp only [List.mem_cons, List.not_mem_nil, or_false] at hi
  rcases hi with rfl | rfl | rfl | rfl | rfl | rfl <;>
    exact exec_eq_refuse .badBand rfl (by rw [checkBand_of_ge hb]; rfl)

/-- Settles O22: the checks before that of TYPE pass. -/
theorem typeAboveSixIsBadType : Obligations.TypeAboveSixIsBadType := by
  intro s b t n ht
  refine ⟨fun i hi => ?_, fun hmode => ?_⟩
  · simp only [List.mem_cons, List.not_mem_nil, or_false] at hi
    rcases hi with rfl | rfl
    · exact exec_eq_refuse .badType rfl (by rw [checkBand_val, checkType_of_gt ht]; rfl)
    · exact exec_eq_refuse .badType rfl (by rw [checkType_of_gt ht]; rfl)
  · have hbank : checkInterleaved s.mode = .ok () := by rw [hmode, checkInterleaved_interleaved]
    exact exec_eq_refuse .badType rfl (by rw [checkBand_val, hbank, checkType_of_gt ht]; rfl)

/-- Settles O23: the checks before that of DEPTH pass, and INIT_BAND checks DEPTH in INTERLEAVED mode. -/
theorem depthOutOfRangeIsBadDepth : Obligations.DepthOutOfRangeIsBadDepth := by
  intro s b ft n hmode hn i hi
  have hdepth : checkDepth n = .error .badDepth := checkDepth_of_not_mem (by omega)
  simp only [List.mem_cons, List.not_mem_nil, or_false] at hi
  rcases hi with rfl | rfl
  · have hbank : checkInterleaved s.mode = .ok () := by rw [hmode, checkInterleaved_interleaved]
    exact exec_eq_refuse .badDepth rfl (by rw [checkBand_val, hbank, hdepth]; rfl)
  · have hinit : initDepth s.mode n = .error .badDepth := by rw [hmode]; exact hdepth
    exact exec_eq_refuse .badDepth rfl (by rw [checkBand_val, checkType_typeCode, hinit]; rfl)

end Sys2Proof.Machine
end

section
/-! SUPPORT. The binary32 operators at the operands of a set at 0 dB: `1.0 × a` and `a ÷ 1.0` for every pattern, a zero
as a factor and as a summand, and doubling (spec 00_scope.md R12, R13, 40_coefficient_solver.md R106). -/

namespace Sys2Proof.Machine

/-! ## The factor 1.0 -/

/-- `1.0 × a` is `a`, unless `a` is a NaN that no operator gives. -/
theorem one_fmul_of_canonical {a : F32} (h : isNaN a = true → a = canonNaN) : fmul f32One a = a := by
  cases ha : fVal a with
  | nan => rw [h (by rw [isNaN, ha]; rfl)]; decide +kernel
  | inf s =>
    have hmul : fmul f32One a = fInf s := by simp [fmul, fVal_one, ha]
    rw [hmul, fVal_inf ha]
  | fin s m => exact one_fmul ((isFinite_iff_fVal a).2 ⟨s, m, ha⟩)

theorem one_fmul_fadd (a b : F32) : fmul f32One (fadd a b) = fadd a b :=
  one_fmul_of_canonical fun h => (fadd_nanLaw a b).canonical (.inr h)

theorem one_fmul_fsub (a b : F32) : fmul f32One (fsub a b) = fsub a b := one_fmul_fadd a (flipSign b)

/-- Multiplying and dividing by 1.0 agree on every pattern, the NaNs and the infinities included. -/
theorem fmul_one_eq_fdiv_one (a : F32) : fmul a f32One = fdiv a f32One := by
  cases ha : fVal a with
  | nan => simp [fmul, fdiv, ha]
  | inf s => simp [fmul, fdiv, ha, fVal_one]
  | fin s m =>
    have hfin : isFinite a = true := (isFinite_iff_fVal a).2 ⟨s, m, ha⟩
    rw [fmul_one hfin, fdiv_one hfin]

theorem one_fadd_one : fadd f32One f32One = f32Two := by decide +kernel

theorem one_fsub_one : fsub f32One f32One = f32Zero := fsub_self (by decide)

theorem fsqrt_one : fsqrt f32One = f32One := by decide +kernel

/-! ## The sign bit of any pattern -/

theorem fVal_flipSign_nan {a : F32} (h : fVal a = .nan) : fVal (flipSign a) = .nan := by
  simpa [isNaN, h] using isNaN_flipSign a

theorem fVal_flipSign_inf {a : F32} {s : Bool} (h : fVal a = .inf s) : fVal (flipSign a) = .inf !s := by
  rw [fVal_inf h]
  cases s <;> decide

theorem isZero_flipSign_eq (a : F32) : isZero (flipSign a) = isZero a := by
  have hflip : flipSign (flipSign a) = a := by simp [flipSign]
  rw [Bool.eq_iff_iff]
  exact ⟨fun h => hflip ▸ isZero_flipSign h, isZero_flipSign⟩

/-! ## A zero as a summand and as a factor -/

/-- `isZero_fadd` for every pattern but a NaN. -/
theorem isZero_fadd_of_not_nan {z a : F32} (hz : isZero z = true) (h0 : isZero a = false) (hn : isNaN a = false) :
    fadd z a = a := by
  cases ha : fVal a with
  | nan => exact absurd ha ((isNaN_eq_false_iff a).1 hn)
  | inf s =>
    obtain ⟨t, ht⟩ := (isZero_iff_fVal z).1 hz
    have hadd : fadd z a = fInf s := by simp [fadd, ht, ha]
    rw [hadd, fVal_inf ha]
  | fin s m => exact isZero_fadd ((isFinite_iff_fVal a).2 ⟨s, m, ha⟩) h0 hz

/-- `0.0 × a` is a zero or, for a NaN or an infinity, the canonical NaN. -/
theorem zero_fmul_cases (a : F32) : isZero (fmul f32Zero a) = true ∨ fmul f32Zero a = canonNaN := by
  have hzero : fVal f32Zero = .fin false 0 := by decide
  cases ha : fVal a with
  | nan => exact .inr (by simp [fmul, hzero, ha])
  | inf s => exact .inr (by simp [fmul, hzero, ha])
  | fin s m => exact .inl (isZero_fmul_left ((isFinite_iff_fVal a).2 ⟨s, m, ha⟩) (by decide))

/-! ## Doubling -/

theorem fVal_two : fVal f32Two = .fin false (2 ^ 150) := by decide +kernel

theorem fVal_negTwo : fVal f32NegTwo = .fin true (2 ^ 150) := by decide +kernel

theorem two_fmul_flipSign (a : F32) : fmul f32Two (flipSign a) = fmul f32NegTwo a := by
  cases ha : fVal a with
  | nan => simp [fmul, fVal_two, fVal_negTwo, ha, fVal_flipSign_nan ha]
  | inf s => simp [fmul, fVal_two, fVal_negTwo, ha, fVal_flipSign_inf ha]
  | fin s m => simp [fmul, fVal_two, fVal_negTwo, ha, fVal_flipSign ha]

theorem isZero_fPack_iff {neg : Bool} {m : Nat} (h : m < 2 ^ 31) : isZero (fPack neg m) = true ↔ m = 0 := by
  simp only [isZero, Bool.or_eq_true, beq_iff_eq, fPack, f32Zero]
  cases neg <;> simp only [Bool.false_eq_true, if_false, if_true] <;> bv_omega

/-- A magnitude of at least one unit does not round to zero. -/
theorem isZero_fRound_of_le {n d : Nat} (neg : Bool) (hd : 0 < d) (h : d ≤ n) : isZero (fRound neg n d) = false := by
  have hlt : roundMag n d < 2 ^ 31 := lt_of_le_of_lt (roundMag_le n d) (by decide)
  rw [← Bool.not_eq_true, fRound, isZero_fPack_iff hlt]
  intro hround
  have hpattern : lostBits (n / d) * 2 ^ 23 + roundEven n (unitTimes n d) = 0 := by
    rw [← roundPattern, ← roundMag_eq_roundPattern (by omega), hround]
  have hlost : lostBits (n / d) = 0 := by omega
  have hquot : 0 < n / d := Nat.div_pos h hd
  have heven : n / d ≤ roundEven n d := by unfold roundEven; split <;> omega
  rw [unitTimes, hlost, pow_zero, Nat.mul_one] at hpattern
  omega

/-- The double of a number that is not a zero is none, as no bit is lost below. -/
theorem isZero_two_fmul {a : F32} (h0 : isZero a = false) : isZero (fmul f32Two a) = false := by
  cases ha : fVal a with
  | nan => simp only [fmul, fVal_two, ha]; decide
  | inf s =>
    simp only [fmul, fVal_two, ha]
    cases s <;> decide
  | fin s m =>
    have hm : 0 < m := Nat.pos_of_ne_zero fun hm => by
      rw [(isZero_iff_fVal a).2 ⟨s, hm ▸ ha⟩] at h0; cases h0
    simp only [fmul, fVal_two, ha]
    exact isZero_fRound_of_le _ (by positivity) (by omega)

end Sys2Proof.Machine
end

section
/-! SUPPORT. The coefficient solver: the amplitude and the sets at 0 dB, when a set is sound, and how SOLVE ends (spec
40_coefficient_solver.md R93, R99 to R102, R105, R106). -/

namespace Sys2Proof.Machine

/-! ## Amplitude -/

theorem exp10_of_isZero {cfg : Params} (h : cfg.P1) {x : F32} (hx : isZero x = true) :
    cfg.exp10 x = f32One := by
  obtain ⟨hpos, hneg⟩ := h
  simp only [isZero, Bool.or_eq_true, beq_iff_eq] at hx
  rcases hx with rfl | rfl
  · exact hpos
  · exact hneg

theorem ampOf_cookbook {cfg : Params} (h : cfg.ampLaw = .cookbook) (g : F32) :
    ampOf cfg g = cfg.exp10 (fdiv g f32Forty) := by simp only [ampOf, h]

theorem ampOf_sqrt {cfg : Params} (h : cfg.ampLaw = .sqrt) (g : F32) :
    ampOf cfg g = fsqrt (cfg.exp10 (fdiv g f32Forty)) := by simp only [ampOf, h]

theorem ampOf_of_isZero {cfg : Params} {g : F32} (h : cfg.P1) (hg : isZero g = true) : ampOf cfg g = f32One := by
  have hexp : cfg.exp10 (fdiv g f32Forty) = f32One := exp10_of_isZero h (isZero_fdiv (by decide) (by decide) hg)
  cases hlaw : cfg.ampLaw with
  | cookbook => rw [ampOf_cookbook hlaw, hexp]
  | sqrt => rw [ampOf_sqrt hlaw, hexp, fsqrt_one]

theorem linGain_of_isZero {cfg : Params} {g : F32} (h : cfg.P1) (hg : isZero g = true) : linGain cfg g = f32One :=
  exp10_of_isZero h (isZero_fdiv (by decide) (by decide) hg)

theorem solveCoefs_of_isZero {cfg : Params} {g : F32} (h : cfg.P1) (hg : isZero g = true) (t : FilterType)
    (omega alpha : F32) :
    (solveCoefs cfg t omega alpha g).1 = formulaRow cfg t (cfg.cos32 omega) (cfg.sin32 omega) alpha f32One := by
  rw [solveCoefs, ampOf_of_isZero h hg]

/-! ## Sets with b = a -/

/-- A set that passes its input, bit for bit: b = a (40_coefficient_solver.md R106). -/
def Coefs.PassThrough (c : Coefs) : Prop := c.b0 = c.a0 ∧ c.b1 = c.a1 ∧ c.b2 = c.a2

theorem rowPeak_one_passThrough (c alpha : F32) : (rowPeak c alpha f32One).PassThrough := by
  simp [Coefs.PassThrough, rowPeak, fmul_one_eq_fdiv_one]

/-- At A = 1.0 the term `(A - 1) × c` is a zero or the canonical NaN, so its sign does not matter. -/
theorem shelfMinus_one (c : F32) : shelfMinus c f32One = shelfPlus c f32One := by
  rw [shelfMinus, shelfPlus, one_fadd_one, one_fsub_one]
  rcases zero_fmul_cases c with h | h
  · rw [fsub_isZero (by decide) (by decide) h, fadd_isZero (by decide) (by decide) h]
  · rw [h]; decide +kernel

/-- At A = 1.0 the cross terms are `0.0 - 2c` and `0.0 + 2c`, opposite unless `2c` is a zero. -/
theorem two_fmul_shelfCrossMinus_one {c : F32} (hc : isZero c = false) :
    fmul f32Two (shelfCrossMinus c f32One) = fmul f32NegTwo (shelfCrossPlus c f32One) := by
  rw [shelfCrossMinus, shelfCrossPlus, one_fadd_one, one_fsub_one]
  have h0 : isZero (fmul f32Two c) = false := isZero_two_fmul hc
  cases hn : isNaN (fmul f32Two c) with
  | true =>
    rw [(fmul_nanLaw f32Two c).canonical (.inr hn)]
    decide +kernel
  | false =>
    rw [fsub, isZero_fadd_of_not_nan (by decide) h0 hn,
      isZero_fadd_of_not_nan (by decide) ((isZero_flipSign_eq _).trans h0) ((isNaN_flipSign _).trans hn),
      two_fmul_flipSign]

theorem rowLowShelf_one_passThrough {c : F32} (hc : isZero c = false) (alpha : F32) :
    (rowLowShelf c alpha f32One).PassThrough := by
  have htwo : fmul f32Two f32One = f32Two := fmul_one (by decide)
  simp only [Coefs.PassThrough, rowLowShelf, shelfMinus_one, one_fmul_fadd, one_fmul_fsub, htwo,
    two_fmul_shelfCrossMinus_one hc, and_self]

theorem rowHighShelf_one_passThrough {c : F32} (hc : isZero c = false) (alpha : F32) :
    (rowHighShelf c alpha f32One).PassThrough := by
  have hnegTwo : fmul f32NegTwo f32One = f32NegTwo := fmul_one (by decide)
  simp only [Coefs.PassThrough, rowHighShelf, shelfMinus_one, one_fmul_fadd, one_fmul_fsub, hnegTwo,
    two_fmul_shelfCrossMinus_one hc, and_self]

/-- A configuration that meets P1 and whose cosine is +0.0 everywhere. -/
def zeroCosine : Params :=
  { ampLaw := .cookbook, bpfForm := .peak0dB, incPolicy := .afterEach, dryTap := .postInputGain
    sin32 := fun _ => 0x3F800000, cos32 := fun _ => 0x00000000, exp10 := fun _ => 0x3F800000 }

theorem zeroCosine_P1 : zeroCosine.P1 := ⟨rfl, rfl⟩

/-! ## SOLVE -/

theorem Coefs.sound_iff (c : Coefs) :
    c.Sound ↔ (∀ v ∈ [c.b0, c.b1, c.b2, c.a0, c.a1, c.a2], isFinite v = true) ∧ isZero c.a0 = false := by
  simp [Coefs.Sound, Coefs.degenerate, and_assoc]

/-- The NONFINITE report of a set, by the two conditions of CheckCoefs (40_coefficient_solver.md R102). -/
theorem State.noteNonfinite_degenerate_sticky (s : State) (c : Coefs) :
    (s.noteNonfinite c.degenerate).sticky =
      if (∀ v ∈ [c.b0, c.b1, c.b2, c.a0, c.a1, c.a2], isFinite v = true) ∧ isZero c.a0 = false
      then s.sticky else s.sticky ||| 0x80 := by
  rw [State.noteNonfinite_sticky]
  by_cases h : c.Sound
  · rw [if_pos (c.sound_iff.1 h), if_neg (by rw [show c.degenerate = false from h]; decide)]
  · rw [if_neg (mt c.sound_iff.2 h), if_pos (by simpa [Coefs.Sound] using h)]
    rfl

theorem exec_solve (t : FilterType) (s : State) : exec (.solve (typeCode t)) s = .next (runSolve Config.build t s) := by
  have hexec : exec (.solve (typeCode t)) s = execSolve (typeCode t) s := rfl
  rw [hexec, execSolve, checkType_typeCode]
  rfl

end Sys2Proof.Machine
end

section
/-! THEOREM. The coefficient solver: MAP and SOLVE, the formula rows, and the sets at 0 dB (spec
40_coefficient_solver.md R91 to R106). -/

namespace Sys2Proof.Machine

/-- Settles O30: MAP ends in `runMap`, which writes omega and alpha. -/
theorem mapWritesOmegaAndAlpha : Obligations.MapWritesOmegaAndAlpha :=
  fun s => ⟨runMap Config.build s, rfl, rfl, rfl, rfl⟩

/-- Settles O31: every type's code passes the check of TYPE, and CheckCoefs reports the set that SOLVE stores. -/
theorem solveStoresAmplitudeAndSet : Obligations.SolveStoresAmplitudeAndSet :=
  fun s ft => ⟨runSolve Config.build ft s, exec_solve ft s, rfl, rfl,
    State.noteNonfinite_degenerate_sticky _ _, rfl⟩

/-- Settles O32, by the amplitude law and the form of BandPass; the other rows are their trees as they stand. -/
theorem formulaRowsAreTheSpecTrees : Obligations.FormulaRowsAreTheSpecTrees := by
  intro cfg c s al A g
  refine ⟨?amp, rfl, rfl, ?bandPass, rfl, rfl, rfl, rfl⟩
  case amp =>
    cases hlaw : cfg.ampLaw with
    | cookbook => exact ampOf_cookbook hlaw g
    | sqrt => exact ampOf_sqrt hlaw g
  case bandPass =>
    cases hform : cfg.bpfForm <;> simp only [formulaRow, rowBandPass, bandPassB0, hform] <;> rfl

/-- Settles O33: `±0.0 ÷ 40.0` and `±0.0 ÷ 20.0` are zeros, whose power of ten is 1.0 by P1. -/
theorem zeroGainIsFactorOne : Obligations.ZeroGainIsFactorOne :=
  fun _ _ hP1 hg => ⟨ampOf_of_isZero hP1 hg, linGain_of_isZero hP1 hg⟩

/-- Settles O34: at A = 1.0 the product and the quotient of the row are the same pattern. -/
theorem peakIsIdentityAtZeroGain : Obligations.PeakIsIdentityAtZeroGain := by
  intro cfg omega al g hP1 hg
  rw [solveCoefs_of_isZero hP1 hg]
  exact rowPeak_one_passThrough _ al

/-- Settles O35: at A = 1.0 the numerator and the denominator of a shelf differ only in the sign of a zero term, which a
cosine that is not a zero outweighs; with a cosine of +0.0, b1 = +0.0 and a1 = -0.0. -/
theorem shelvesAreIdentityAtZeroGain : Obligations.ShelvesAreIdentityAtZeroGain := by
  refine ⟨fun cfg ft omega al g hft hP1 hg hcos => ?_, zeroCosine, 0, 0, 0, zeroCosine_P1, by decide, by decide, ?_⟩
  · rw [solveCoefs_of_isZero hP1 hg]
    rcases hft with rfl | rfl
    · exact rowLowShelf_one_passThrough hcos al
    · exact rowHighShelf_one_passThrough hcos al
  · rw [solveCoefs_of_isZero zeroCosine_P1 (by decide)]
    decide +kernel

end Sys2Proof.Machine
end

section
/-! SUPPORT. The lazy update: what a recomputation makes of its band, when a band is due for one, and how INIT_BAND and
UPDATE_BAND end (spec 41_biquad_core.md R122, R123). -/

namespace Sys2Proof.Machine

/-! ## One band -/

/-- The set of a band's type and staging values at the sample rate `fs` (R123). -/
def Band.solved (x : Band) (cfg : Params) (fs : F32) : Coefs := bandCoefs cfg x.ftype fs x.freq x.gainDb x.q

/-- A band is due for a recomputation at the sample rate `fs`: it is DIRTY, or a parameter differs (R123). -/
def Band.due (x : Band) (fs : F32) : Bool :=
  !feq fs x.stFs || !feq x.freq x.stFreq || !feq x.gainDb x.stGain || !feq x.q x.stQ || x.dirty

/-- What the lazy update makes of a band (R123). -/
def Band.updated (x : Band) (cfg : Params) (fs : F32) : Band :=
  if x.due fs then x.recomputed (x.solved cfg fs) fs else x

section
variable (x : Band) (cfg : Params) (fs : F32)

theorem Band.due_iff : x.due fs = true ↔ x.dirty = true ∨ feq fs x.stFs = false ∨ feq x.freq x.stFreq = false ∨
    feq x.gainDb x.stGain = false ∨ feq x.q x.stQ = false := by
  simp only [Band.due, Bool.or_eq_true, Bool.not_eq_true']
  tauto

theorem Band.due_eq_false_iff : x.due fs = false ↔ x.dirty = false ∧ feq fs x.stFs = true ∧
    feq x.freq x.stFreq = true ∧ feq x.gainDb x.stGain = true ∧ feq x.q x.stQ = true := by
  rw [← Bool.not_eq_true, Band.due_iff]
  simp only [not_or, Bool.not_eq_true, Bool.not_eq_false]

variable {x fs}

theorem Band.updated_of_due (h : x.due fs = true) : x.updated cfg fs = x.recomputed (x.solved cfg fs) fs := if_pos h

theorem Band.updated_of_not_due (h : x.due fs = false) : x.updated cfg fs = x := by simp [Band.updated, h]

variable (x fs)

theorem Band.updated_dirty : (x.updated cfg fs).dirty = false := by
  cases h : x.due fs with
  | true => rw [Band.updated_of_due cfg h]; rfl
  | false => rw [Band.updated_of_not_due cfg h, ((x.due_eq_false_iff fs).1 h).1]

@[simp] theorem Band.slot_recomputed (c : Coefs) (k : Fin 10) :
    (x.recomputed c fs).slot k = { x.slot k with coefs := c } := Band.slot_setCoefs x c k

/-- INIT_BAND's slots: the new set over zero history in all ten (R122). -/
theorem Band.slots_initialised_recomputed (t : FilterType) (d : BitVec 4) (c : Coefs) :
    ((x.initialised t d).recomputed c fs).slots = Vector.replicate 10 ⟨c, Lane.zero, Lane.zero⟩ :=
  vector_ext_get fun k => by
    have hslot := Band.slot_recomputed (x.initialised t d) fs c k
    rw [Band.slot_initialised] at hslot
    simpa [Band.slot, Vector.get_eq_getElem, Slot.clearHistory] using hslot

end

/-- A staging value that is no NaN equals itself once it is stored. -/
theorem feq_self {a : F32} (h : isNaN a = false) : feq a a = true := (feq_iff a a).2 ⟨h, h, .inl rfl⟩

/-- A band just recomputed is not due, unless a staging value is a NaN. -/
theorem Band.due_recomputed {x : Band} {fs : F32} (h : ∀ v ∈ [fs, x.freq, x.gainDb, x.q], isNaN v = false)
    (c : Coefs) : (x.recomputed c fs).due fs = false := by
  simp only [List.forall_mem_cons, List.not_mem_nil, false_implies, implies_true, and_true] at h
  obtain ⟨hfs, hfreq, hgain, hq⟩ := h
  exact (Band.due_eq_false_iff _ _).2 ⟨rfl, feq_self hfs, feq_self hfreq, feq_self hgain, feq_self hq⟩

/-! ## The state -/

section
variable (cfg : Params) (b : Fin 5) (s : State)

theorem recompute_eq_solved :
    recompute cfg b s =
      (s.setBand b ((s.band b).recomputed ((s.band b).solved cfg s.sampleRate) s.sampleRate)).noteNonfinite
        ((s.band b).solved cfg s.sampleRate).degenerate := rfl

theorem due_eq : (s.band b).due s.sampleRate = (parametersChanged b s || (s.band b).dirty) := rfl

variable {b s}

theorem lazyUpdate_of_due (h : (s.band b).due s.sampleRate = true) : lazyUpdate cfg b s = recompute cfg b s := if_pos h

theorem lazyUpdate_of_not_due (h : (s.band b).due s.sampleRate = false) : lazyUpdate cfg b s = s :=
  if_neg (by rw [← due_eq, h]; decide)

variable (b s)

/-- The lazy update of a band updates that band and no other. -/
theorem lazyUpdate_band (d : Fin 5) :
    (lazyUpdate cfg b s).band d = if d = b then (s.band b).updated cfg s.sampleRate else s.band d := by
  cases h : (s.band b).due s.sampleRate with
  | true => rw [lazyUpdate_of_due cfg h, Band.updated_of_due cfg h, recompute_eq_solved, State.band_noteNonfinite,
      State.band_setBand]
  | false =>
    rw [lazyUpdate_of_not_due cfg h, Band.updated_of_not_due cfg h]
    split
    next e => rw [e]
    next => rfl

@[simp] theorem lazyUpdate_sampleRate : (lazyUpdate cfg b s).sampleRate = s.sampleRate :=
  (congrArg State.sampleRate (untouched_lazyUpdate cfg b s).rest :)

/-- INIT_BAND recomputes the band it has set up (R122). -/
theorem runInitBand_eq_recomputed (t : FilterType) (d : BitVec 4) :
    runInitBand cfg b t d s =
      (s.setBand b (((s.band b).initialised t d).recomputed
        (((s.band b).initialised t d).solved cfg s.sampleRate) s.sampleRate)).noteNonfinite
      (((s.band b).initialised t d).solved cfg s.sampleRate).degenerate := by
  rw [runInitBand_eq, recompute_eq_solved, State.band_setBand_same, State.setBand_setBand, State.setBand_sampleRate]

end

/-- A loop of lazy updates over distinct bands updates each of them once. -/
theorem foldl_lazyUpdate_band (cfg : Params) {l : List (Fin 5)} (hl : l.Nodup) (s : State) (d : Fin 5) :
    (l.foldl (fun t b => lazyUpdate cfg b t) s).band d =
      if d ∈ l then (s.band d).updated cfg s.sampleRate else s.band d := by
  induction l generalizing s with
  | nil => rfl
  | cons b l ih =>
    obtain ⟨hb, hl⟩ := List.nodup_cons.1 hl
    rw [List.foldl_cons, ih hl, lazyUpdate_sampleRate, lazyUpdate_band]
    by_cases hd : d = b
    · subst hd
      simp [hb]
    · simp [hd]

/-- Step 2 of TICK updates every band (43_band_chain.md R162). -/
theorem updateAll_band (cfg : Params) (s : State) (b : Fin 5) :
    (updateAll cfg s).band b = (s.band b).updated cfg s.sampleRate := by
  have hall : b ∈ bandOrder := by revert b; decide
  rw [updateAll, foldl_lazyUpdate_band cfg (by decide) s b, if_pos hall]

/-! ## The commands -/

theorem initDepth_of_mem {m : Mode} {n : Nat} (h : m = .interleaved → 1 ≤ n ∧ n ≤ 10) :
    initDepth m n = .ok (if m = .interleaved then BitVec.ofNat 4 n else 1) := by
  cases m with
  | biquad => rfl
  | interleaved => exact checkDepth_of_mem (h rfl)

theorem exec_initBand (b : Fin 5) (t : FilterType) {n : Nat} {s : State} {d : BitVec 4}
    (h : initDepth s.mode n = .ok d) :
    exec (.initBand b (typeCode t) n) s = .next (runInitBand Config.build b t d s) := by
  have hexec : exec (.initBand b (typeCode t) n) s = execInitBand b (typeCode t) n s := rfl
  rw [hexec, execInitBand, checkBand_val, checkType_typeCode, h]
  rfl

theorem exec_updateBand (b : Fin 5) (s : State) : exec (.updateBand b) s = .next (lazyUpdate Config.build b s) := by
  have hexec : exec (.updateBand b) s = execUpdateBand b s := rfl
  rw [hexec, execUpdateBand, checkBand_val]
  rfl

end Sys2Proof.Machine
end

section
/-! SUPPORT. The Direct-Form-I step: the two lanes of a slot, the commands that step or clear it, and what the chain
leaves of a band (spec 41_biquad_core.md R120, R121, R124, R125, 43_band_chain.md R160). -/

namespace Sys2Proof.Machine

/-! ## Two lanes -/

theorem State.noteNonfinite_setBand (s : State) (bad : Bool) (b : Fin 5) (x : Band) :
    (s.noteNonfinite bad).setBand b x = (s.setBand b x).noteNonfinite bad := rfl

/-- Two reports are one. -/
theorem State.noteNonfinite_noteNonfinite (s : State) (p q : Bool) :
    (s.noteNonfinite p).noteNonfinite q = s.noteNonfinite (p || q) := by
  cases p <;> cases q <;> simp [State.noteNonfinite, BitVec.or_assoc]

/-- The report of two outputs, by which of them are finite (R124). -/
theorem State.noteNonfinite_not_or_not (s : State) (p q : Bool) :
    s.noteNonfinite (!p || !q) = { s with sticky := if p = true ∧ q = true then s.sticky else s.sticky ||| 0x80 } := by
  cases p <;> cases q <;> rfl

theorem Band.setSlot_setSlot (x : Band) (k : Fin 10) (y z : Slot) : (x.setSlot k y).setSlot k z = x.setSlot k z := by
  simp [Band.setSlot]

section
variable {c d : Channel} (hcd : c ≠ d)
include hcd

theorem Slot.setLane_comm (y : Slot) (h g : Lane) : (y.setLane c h).setLane d g = (y.setLane d g).setLane c h :=
  match c, d, hcd with
  | .left, .right, _ => rfl
  | .right, .left, _ => rfl

theorem Slot.lane_setLane_ne (y : Slot) (h : Lane) : (y.setLane c h).lane d = y.lane d :=
  match c, d, hcd with
  | .left, .right, _ => rfl
  | .right, .left, _ => rfl

end

/-- The output of channel `ch` of a slot for the sample `x`. -/
def Slot.output (y : Slot) (ch : Channel) (x : F32) : F32 := df1Output y.coefs (y.lane ch) x

/-- The slot after channel `ch` has stepped by the sample `x`. -/
def Slot.stepped (y : Slot) (ch : Channel) (x : F32) : Slot := y.setLane ch ((y.lane ch).shift x (y.output ch x))

theorem Slot.stepped_coefs (y : Slot) (ch : Channel) (x : F32) : (y.stepped ch x).coefs = y.coefs :=
  Slot.setLane_coefs _ _ _

section
variable {c d : Channel} (hcd : c ≠ d) (y : Slot) (v w : F32)
include hcd

/-- A lane's output does not depend on a step of the other lane (R121). -/
theorem Slot.output_stepped : (y.stepped c v).output d w = y.output d w := by
  rw [Slot.output, Slot.stepped_coefs, Slot.stepped, Slot.lane_setLane_ne hcd, Slot.output]

/-- Both lanes shift the history of the slot as it stood. -/
theorem Slot.stepped_stepped : (y.stepped c v).stepped d w =
    (y.setLane c ((y.lane c).shift v (y.output c v))).setLane d ((y.lane d).shift w (y.output d w)) := by
  rw [Slot.stepped, Slot.output_stepped hcd, Slot.stepped, Slot.lane_setLane_ne hcd]

/-- The steps of the two lanes commute (R121). -/
theorem Slot.stepped_comm : (y.stepped c v).stepped d w = (y.stepped d w).stepped c v := by
  rw [Slot.stepped_stepped hcd, Slot.stepped_stepped hcd.symm, Slot.setLane_comm hcd]

end

section
variable (b : Fin 5) (k : Fin 10) (s : State)

theorem df1_eq (ch : Channel) (v : F32) :
    df1 b k ch v s = (((s.band b).slot k).output ch v,
      (s.setBand b ((s.band b).setSlot k (((s.band b).slot k).stepped ch v))).noteNonfinite
        (!isFinite (((s.band b).slot k).output ch v))) := rfl

/-- One lane's step after the other's: both outputs are those of the slot as it stood. -/
theorem df1_df1 {c d : Channel} (hcd : c ≠ d) (v w : F32) :
    df1 b k d w (df1 b k c v s).2 = (((s.band b).slot k).output d w,
      (s.setBand b ((s.band b).setSlot k ((((s.band b).slot k).stepped c v).stepped d w))).noteNonfinite
        (!isFinite (((s.band b).slot k).output c v) || !isFinite (((s.band b).slot k).output d w))) := by
  simp only [df1_eq, State.band_noteNonfinite, State.band_setBand_same, Band.slot_setSlot_same, Slot.output_stepped hcd,
    State.noteNonfinite_setBand, State.setBand_setBand, Band.setSlot_setSlot, State.noteNonfinite_noteNonfinite]

/-- The step of a lane commutes with that of the other (R121). -/
theorem df1_comm {c d : Channel} (hcd : c ≠ d) (v w : F32) :
    (df1 b k d w (df1 b k c v s).2).2 = (df1 b k c v (df1 b k d w s).2).2 := by
  rw [df1_df1 b k s hcd, df1_df1 b k s hcd.symm, Slot.stepped_comm hcd, Bool.or_comm]

/-- The step pair on the slot as it stood. -/
theorem stepPair_eq (vl vr : F32) :
    stepPair b k (vl, vr) s = ((((s.band b).slot k).output .left vl, ((s.band b).slot k).output .right vr),
      (s.setBand b ((s.band b).setSlot k ((((s.band b).slot k).stepped .left vl).stepped .right vr))).noteNonfinite
        (!isFinite (((s.band b).slot k).output .left vl) || !isFinite (((s.band b).slot k).output .right vr))) := by
  have h := df1_df1 b k s (c := .left) (d := .right) (by decide) vl vr
  rw [stepPair, h, df1_eq]

end

/-! ## The commands -/

theorem exec_processBand (b : Fin 5) (s : State) : exec (.processBand b) s = .next (runProcessBand b s) := by
  have hexec : exec (.processBand b) s = execProcessBand b s := rfl
  rw [hexec, execProcessBand, checkBand_val]
  rfl

/-- PROCESS_BAND steps both lanes of the active slot as it stood (R124). -/
theorem runProcessBand_eq (b : Fin 5) (s : State) :
    let y := (s.band b).slot (s.band b).active
    runProcessBand b s = { (s.setBand b ((s.band b).setSlot (s.band b).active
        ((y.stepped .left s.inL).stepped .right s.inR))).noteNonfinite
          (!isFinite (y.output .left s.inL) || !isFinite (y.output .right s.inR)) with
      outL := y.output .left s.inL, outR := y.output .right s.inR } := by
  intro y
  rw [runProcessBand, stepPair_eq]

theorem runResetHistory_band (s : State) (b : Fin 5) : (runResetHistory s).band b = (s.band b).clearHistory :=
  forEach_get _ _ _

/-! ## The chain -/

/-- `y` is the band `x` with other histories and another cursor. -/
structure Band.Filtered (x y : Band) : Prop where
  rest : y = { x with slots := y.slots, active := y.active }
  coefs : ∀ k, (y.slot k).coefs = (x.slot k).coefs

theorem Band.Filtered.refl (x : Band) : x.Filtered x := ⟨rfl, fun _ => rfl⟩

theorem Band.Filtered.trans {x y z : Band} (h : x.Filtered y) (g : y.Filtered z) : x.Filtered z :=
  ⟨by rw [g.rest, h.rest], fun k => (g.coefs k).trans (h.coefs k)⟩

theorem Band.Filtered.dirty {x y : Band} (h : x.Filtered y) : y.dirty = x.dirty := (congrArg Band.dirty h.rest :)

theorem Band.Filtered.sameSet {x y : Band} (h : x.Filtered y) : x.SameSet y :=
  ⟨h.coefs, (congrArg Band.stFs h.rest :), (congrArg Band.stFreq h.rest :), (congrArg Band.stGain h.rest :),
    (congrArg Band.stQ h.rest :)⟩

/-- Every band of `t` is that of `s` with other histories and another cursor. -/
def State.Filtered (s t : State) : Prop := ∀ b, (s.band b).Filtered (t.band b)

theorem State.Filtered.refl (s : State) : s.Filtered s := fun _ => .refl _

theorem State.Filtered.trans {s t u : State} (h : s.Filtered t) (g : t.Filtered u) : s.Filtered u :=
  fun b => (h b).trans (g b)

theorem filtered_setBand {s : State} {b : Fin 5} {x : Band} (h : (s.band b).Filtered x) :
    s.Filtered (s.setBand b x) := by
  intro d
  rw [State.band_setBand]
  split
  next e => exact e ▸ h
  next => exact .refl _

theorem filtered_df1 (b : Fin 5) (k : Fin 10) (ch : Channel) (v : F32) (s : State) : s.Filtered (df1 b k ch v s).2 :=
  filtered_setBand ⟨rfl, fun j => Band.coefs_setSlot _ j (Slot.setLane_coefs _ _ _)⟩

theorem filtered_stepPair (b : Fin 5) (k : Fin 10) (v : F32 × F32) (s : State) : s.Filtered (stepPair b k v s).2 :=
  (filtered_df1 b k .left v.1 s).trans (filtered_df1 b k .right v.2 _)

theorem filtered_incIdx (b : Fin 5) (s : State) : s.Filtered (incIdx b s) := filtered_setBand ⟨rfl, fun _ => rfl⟩

theorem filtered_onePass (cfg : Params) (m : Mode) (b : Fin 5) (acc : (F32 × F32) × State) (p : Nat) :
    acc.2.Filtered (onePass cfg m b acc p).2 := by
  have before : acc.2.Filtered (rotateBefore cfg m b p acc.2) := by
    unfold rotateBefore
    split
    · exact filtered_incIdx _ _
    · exact .refl _
  have after : ∀ t : State, t.Filtered (rotateAfter cfg m b t) := by
    intro t
    unfold rotateAfter
    split
    · exact filtered_incIdx _ _
    · exact .refl _
  exact (before.trans (filtered_stepPair _ _ _ _)).trans (after _)

theorem filtered_foldl {β : Type} {f : (F32 × F32) × State → β → (F32 × F32) × State}
    (h : ∀ (acc : (F32 × F32) × State) b, acc.2.Filtered (f acc b).2) (l : List β) (acc : (F32 × F32) × State) :
    acc.2.Filtered (l.foldl f acc).2 :=
  List.foldlRecOn (motive := fun r : (F32 × F32) × State => acc.2.Filtered r.2) _ _ (.refl _)
    fun _ hr b _ => hr.trans (h _ b)

theorem filtered_bandPasses (cfg : Params) (m : Mode) (k : Nat) (acc : (F32 × F32) × State) (b : Fin 5) :
    acc.2.Filtered (bandPasses cfg m k acc b).2 := filtered_foldl (filtered_onePass cfg m b) _ acc

/-- The cascade moves histories and cursors, and nothing else of a band (43_band_chain.md R162 step 3). -/
theorem filtered_cascade (cfg : Params) (m : Mode) (k : Nat) (v : F32 × F32) (s : State) :
    s.Filtered (cascade cfg m k v s).2 := filtered_foldl (filtered_bandPasses cfg m k) _ (v, s)

/-- TICK leaves of a band its lazy update, with other histories and another cursor. -/
theorem filtered_runTick (cfg : Params) (s : State) (b : Fin 5) :
    ((s.band b).updated cfg s.sampleRate).Filtered ((runTick cfg s).band b) := by
  have h := filtered_cascade cfg s.mode s.osf.toNat
    (fmul s.inL (linGain cfg s.inGainDb), fmul s.inR (linGain cfg s.inGainDb))
    (updateAll cfg { s with
      preL := fmul s.inL (linGain cfg s.inGainDb), preR := fmul s.inR (linGain cfg s.inGainDb) }) b
  rw [updateAll_band] at h
  exact h

end Sys2Proof.Machine
end

section
/-! SUPPORT. The values of the Direct-Form-I recursion on zeros and on an impulse (spec 41_biquad_core.md R120, R126,
R127). -/

namespace Sys2Proof.Machine

/-- Adding a zero changes no number that is not a zero, no infinity, and no NaN but one that no operator gives. -/
theorem fadd_isZero_of_canonical {a z : F32} (hn : isNaN a = true → a = canonNaN) (h0 : isZero a = false)
    (hz : isZero z = true) : fadd a z = a := by
  cases ha : fVal a with
  | nan =>
    have hadd : fadd a z = canonNaN := by simp only [fadd, ha]
    rw [hadd, hn (by rw [isNaN, ha]; rfl)]
  | inf s =>
    obtain ⟨t, ht⟩ := (isZero_iff_fVal z).1 hz
    have hadd : fadd a z = fInf s := by simp only [fadd, ha, ht]
    rw [hadd, fVal_inf ha]
  | fin s m => exact fadd_isZero ((isFinite_iff_fVal a).2 ⟨s, m, ha⟩) h0 hz

/-- Subtracting a zero from a difference changes at most the sign of a zero. -/
theorem fsub_fsub_isZero (a b : F32) {z : F32} (hz : isZero z = true) :
    fsub (fsub a b) z = fsub a b ∨ (isZero (fsub (fsub a b) z) = true ∧ isZero (fsub a b) = true) := by
  cases h0 : isZero (fsub a b) with
  | true => exact .inr ⟨isZero_fsub_isZero h0 hz, rfl⟩
  | false =>
    exact .inl (fadd_isZero_of_canonical (fun h => (fsub_nanLaw a b).canonical (.inr h)) h0 (isZero_flipSign hz))

/-- Zeros of either sign give the same quotient, or zeros. -/
theorem fdiv_isZero_congr {x y a : F32} (ha : isFinite a = true) (hx : isZero x = true) (hy : isZero y = true) :
    fdiv x a = fdiv y a ∨ (isZero (fdiv x a) = true ∧ isZero (fdiv y a) = true) := by
  cases h0 : isZero a with
  | false => exact .inr ⟨isZero_fdiv ha h0 hx, isZero_fdiv ha h0 hy⟩
  | true =>
    have hnan : ∀ {v : F32}, isZero v = true → fdiv v a = canonNaN := by
      intro v hv
      obtain ⟨s, hs⟩ := (isZero_iff_fVal v).1 hv
      obtain ⟨t, ht⟩ := (isZero_iff_fVal a).1 h0
      simp [fdiv, hs, ht]
    exact .inl ((hnan hx).trans (hnan hy).symm)

/-- Finite coefficients on zeros give a zero over a0 (R126). -/
theorem isZero_df1Output {c : Coefs} {h : Lane} {x : F32} (hc : c.Sound) (hh : h.Silent) (hx : isZero x = true) :
    isZero (df1Output c h x) = true := by
  obtain ⟨hfin, ha0⟩ := c.sound_iff.1 hc
  obtain ⟨hx1, hx2, hy1, hy2⟩ := hh
  have hprod : ∀ v ∈ [c.b0, c.b1, c.b2, c.a0, c.a1, c.a2], ∀ {z : F32}, isZero z = true →
      isZero (fmul v z) = true := fun v hv _ hz => isZero_fmul (hfin v hv) hz
  have hfeed : isZero (fadd (fadd (fmul c.b0 x) (fmul c.b1 h.x1)) (fmul c.b2 h.x2)) = true :=
    isZero_fadd_isZero (isZero_fadd_isZero (hprod _ (by simp) hx) (hprod _ (by simp) hx1)) (hprod _ (by simp) hx2)
  exact isZero_fdiv (hfin _ (by simp)) ha0
    (isZero_fsub_isZero (isZero_fsub_isZero hfeed (hprod _ (by simp) hy1)) (hprod _ (by simp) hy2))

/-- Silence in, silence kept: a zero sample and a zero output shift into a silent history. -/
theorem Lane.Silent.shift {h : Lane} {x y : F32} (hh : h.Silent) (hx : isZero x = true) (hy : isZero y = true) :
    (h.shift x y).Silent := by
  obtain ⟨hx1, -, hy1, -⟩ := hh
  exact ⟨hx, hx1, hy, hy1⟩

section
variable {c : Coefs} (hfin : ∀ v ∈ [c.b0, c.b1, c.b2, c.a0, c.a1, c.a2], isFinite v = true)
include hfin

/-- The first tap of an impulse: every term but `b0 × 1.0` is a zero (R127). -/
theorem df1Output_impulse (h0 : isZero c.b0 = false) : df1Output c Lane.zero f32One = fdiv c.b0 c.a0 := by
  simp only [List.forall_mem_cons, List.not_mem_nil, false_implies, implies_true, and_true] at hfin
  obtain ⟨hb0, hb1, hb2, -, ha1, ha2⟩ := hfin
  have hzero : isZero 0 = true := by decide
  simp only [df1Output, Lane.zero]
  rw [fmul_one hb0, fadd_isZero hb0 h0 (isZero_fmul hb1 hzero), fadd_isZero hb0 h0 (isZero_fmul hb2 hzero),
    fsub_isZero hb0 h0 (isZero_fmul ha1 hzero), fsub_isZero hb0 h0 (isZero_fmul ha2 hzero)]

/-- The second tap: `b1 × 1.0` and the feedback of the first, less a zero (R127). -/
theorem df1Output_after_impulse (h1 : isZero c.b1 = false) (y0 : F32) :
    df1Output c ⟨f32One, 0, y0, 0⟩ 0 = fdiv (fsub (fsub c.b1 (fmul c.a1 y0)) (fmul c.a2 0)) c.a0 := by
  simp only [List.forall_mem_cons, List.not_mem_nil, false_implies, implies_true, and_true] at hfin
  obtain ⟨hb0, hb1, hb2, -, -, -⟩ := hfin
  have hzero : isZero 0 = true := by decide
  rw [df1Output, fmul_one hb1, isZero_fadd hb1 h1 (isZero_fmul hb0 hzero), fadd_isZero hb1 h1 (isZero_fmul hb2 hzero)]

end

end Sys2Proof.Machine
end

section
/-! THEOREM. The biquad core: the step of a slot, the lazy update, INIT_BAND, PROCESS_BAND and RESET_HISTORY, silence and
the impulse, and the updates of TICK (spec 41_biquad_core.md R120 to R127, 43_band_chain.md R162). -/

namespace Sys2Proof.Machine

/-- Settles O36: INIT_BAND recomputes the band that it has set up. -/
theorem initBandConstructsTheBand : Obligations.InitBandConstructsTheBand := by
  intro s b ft n hn
  refine ⟨_, _, exec_initBand b ft (initDepth_of_mem hn), rfl, ?_, ?_⟩ <;> rw [runInitBand_eq_recomputed]
  · rw [State.band_noteNonfinite, State.band_setBand_same, ← Lane.zero,
      ← Band.slots_initialised_recomputed _ s.sampleRate]
    rfl
  · rw [State.band_noteNonfinite, State.band_setBand_same]
    rfl

/-- Settles O37: a band that is due is recomputed. -/
theorem updateBandRecomputes : Obligations.UpdateBandRecomputes := by
  intro s b h
  have hdue : (s.band b).due s.sampleRate = true := (Band.due_iff _ _).2 h
  have hband : (recompute Config.build b s).band b =
      (s.band b).recomputed ((s.band b).solved Config.build s.sampleRate) s.sampleRate := State.band_setBand_same _ _ _
  refine ⟨recompute Config.build b s, _, ?_, rfl, fun k => ?_, ?_, ?_⟩
  · rw [exec_updateBand, lazyUpdate_of_due _ hdue]
  · rw [hband, Band.slot_recomputed]
    rfl
  · rw [hband]
    rfl
  · rw [hband]
    rfl

/-- Settles O38: a band that is not due stays as it is. -/
theorem updateBandIsLazy : Obligations.UpdateBandIsLazy := by
  intro s b hdirty hfs hfreq hgain hq
  rw [exec_updateBand, lazyUpdate_of_not_due _ ((Band.due_eq_false_iff _ _).2 ⟨hdirty, hfs, hfreq, hgain, hq⟩)]

/-- Settles O39: an INIT_BAND that raised no error ran, and left its band recomputed, which is not due. -/
theorem updateAfterInitIsLazy : Obligations.UpdateAfterInitIsLazy := by
  intro s t b ft n _ hnan he hok
  rcases exec_cases he with ⟨c, rfl⟩ | ⟨b', ft', d, hb, -, -, rfl⟩
  · cases hok
  · rw [checkBand_val] at hb
    cases hb
    have hdue : ((runInitBand Config.build b ft' d s).band b).due s.sampleRate = false := by
      rw [runInitBand_eq_recomputed, State.band_noteNonfinite, State.band_setBand_same]
      exact Band.due_recomputed (x := (s.band b).initialised ft' d) hnan _
    rw [exec_updateBand, lazyUpdate_of_not_due _ hdue]

/-- Settles O40: the step pair on the active slot reads the slot as it stood, for both lanes. -/
theorem processBandFiltersTheActiveSlot : Obligations.ProcessBandFiltersTheActiveSlot := by
  intro s b
  refine ⟨runProcessBand b s, exec_processBand b s, ?_⟩
  rw [runProcessBand_eq, State.noteNonfinite_not_or_not]
  exact ⟨rfl, rfl, rfl⟩

/-- Settles O41: the lanes' steps commute, and neither output depends on the other's step. -/
theorem laneOrderDoesNotMatter : Obligations.LaneOrderDoesNotMatter := by
  intro s b k xl xr
  have hpair := stepPair_eq b k s xl xr
  refine ⟨rfl, ?_, ?_, (df1_comm b k s (by decide) xl xr).symm⟩
  · rw [hpair, df1_eq]
  · rw [hpair, df1_df1 b k s (by decide)]

/-- Settles O42: the loop clears each slot of each band. -/
theorem resetHistoryClearsEverySlot : Obligations.ResetHistoryClearsEverySlot := by
  intro s
  refine ⟨runResetHistory s, rfl, fun b k => ?_, fun b => ?_, rfl⟩ <;> rw [runResetHistory_band]
  · rw [Band.slot_clearHistory]
    rfl
  · rfl

/-- Settles O43, by induction on the samples: each step gives a zero and leaves a silent history. -/
theorem silenceStaysSilence : Obligations.SilenceStaysSilence := by
  intro c h xs hc hh hxs
  induction xs generalizing h with
  | nil => exact ⟨nofun, hh⟩
  | cons x xs ih =>
    obtain ⟨hx, hxs⟩ := List.forall_mem_cons.1 hxs
    have hy : isZero (df1Output c h x) = true := isZero_df1Output hc hh hx
    obtain ⟨hout, hlast⟩ := ih _ (hh.shift hx hy) hxs
    exact ⟨List.forall_mem_cons.2 ⟨hy, hout⟩, hlast⟩

/-- Settles O44: the terms on zero history are zeros, and the one subtracted last can change the sign of a zero only. -/
theorem impulseTaps : Obligations.ImpulseTaps := by
  intro c hfin y0 y1 e
  refine ⟨df1Output_impulse hfin, fun h1 => ?_⟩
  have hy1 : y1 = fdiv (fsub (fsub c.b1 (fmul c.a1 y0)) (fmul c.a2 0)) c.a0 := df1Output_after_impulse hfin h1 y0
  have hzero : isZero (fmul c.a2 0) = true := isZero_fmul (hfin c.a2 (by simp)) (by decide)
  rcases fsub_fsub_isZero c.b1 (fmul c.a1 y0) hzero with h | ⟨h, h'⟩
  · exact .inl (by rw [hy1, h])
  · rw [hy1]
    exact fdiv_isZero_congr (hfin c.a0 (by simp)) h h'

/-- Settles O53: TICK leaves of a band its lazy update, whose coefficients, stored parameters and DIRTY the chain
keeps. -/
theorem tickUpdatesEveryBand : Obligations.TickUpdatesEveryBand := by
  intro s t b he
  obtain rfl : runTick Config.build s = t := Host.Outcome.next.inj he
  have hband := filtered_runTick Config.build s b
  refine ⟨hband.dirty.trans (Band.updated_dirty _ _ _), ?_⟩
  obtain ⟨hcoefs, hfs, hfreq, hgain, hq⟩ := hband.sameSet
  split
  next h =>
    have hdue : (s.band b).due s.sampleRate = true := by rw [due_eq, Bool.or_eq_true]; exact h.symm
    rw [Band.updated_of_due _ hdue] at hcoefs hfs hfreq hgain hq
    exact ⟨fun k => (hcoefs k).trans (Band.coefs_recomputed _ k _ _), hfs, hfreq, hgain, hq⟩
  next h =>
    have hdue : (s.band b).due s.sampleRate = false := by
      rw [due_eq, ← Bool.not_eq_true, Bool.or_eq_true]; exact fun h' => h h'.symm
    rw [Band.updated_of_not_due _ hdue] at hcoefs hfs hfreq hgain hq
    exact ⟨hcoefs, hfs, hfreq, hgain, hq⟩

end Sys2Proof.Machine
end

section
/-! SUPPORT. The interleaved bank: what its commands answer in INTERLEAVED mode and what the mode change of a CTRL write
does to the bands (spec 42_interleaved_bank.md R141 to R145, 10_state.md R22), and the cursor after any number of
INCREMENT_INDEX commands (R144). -/

namespace Sys2Proof.Machine

/-! ## The commands -/

section
variable {s : State} (b : Fin 5)

theorem exec_setType (h : s.mode = .interleaved) (t : FilterType) :
    exec (.setType b (typeCode t)) s = .next (s.setBand b ((s.band b).setTypeTo t)) := by
  have hexec : exec (.setType b (typeCode t)) s = execSetType b (typeCode t) s := rfl
  rw [hexec, execSetType, checkBand_val, h, checkInterleaved_interleaved, checkType_typeCode]
  rfl

theorem exec_setInterleave (h : s.mode = .interleaved) {n : Nat} {d : BitVec 4} (hd : checkDepth n = .ok d) :
    exec (.setInterleave b n) s = .next (s.setBand b ((s.band b).setDepthTo d)) := by
  have hexec : exec (.setInterleave b n) s = execSetInterleave b n s := rfl
  rw [hexec, execSetInterleave, checkBand_val, h, checkInterleaved_interleaved, hd]
  rfl

theorem exec_incrementIndex (h : s.mode = .interleaved) :
    exec (.incrementIndex b) s = .next (s.setBand b (s.band b).incIndex) := by
  have hexec : exec (.incrementIndex b) s = execIncrementIndex b s := rfl
  rw [hexec, execIncrementIndex, checkBand_val, h, checkInterleaved_interleaved]
  rfl

/-- The command `m` times moves the cursor of its band `m` times and leaves all else. -/
theorem repeatCommand_incrementIndex (h : s.mode = .interleaved) (m : Nat) :
    repeatCommand (.incrementIndex b) m s = .next (s.setBand b (Band.incIndex^[m] (s.band b))) := by
  induction m generalizing s with
  | zero => rw [Function.iterate_zero_apply, State.setBand_band, repeatCommand]
  | succ m ih =>
    have hmode : (s.setBand b (s.band b).incIndex).mode = .interleaved := h
    simp only [repeatCommand, exec_incrementIndex b h]
    rw [ih hmode, State.band_setBand_same, State.setBand_setBand, Function.iterate_succ_apply]

end

/-- A slot of the band after SET_INTERLEAVE (R141). -/
theorem Band.slot_setDepthTo (x : Band) (d : BitVec 4) (k : Fin 10) :
    (x.setDepthTo d).slot k =
      if x.depth.toNat ≤ k.val ∧ k.val < d.toNat then (x.slot k).clearHistory else x.slot k :=
  zeroIncluded_get _ _ _ _

/-! ## The cursor -/

theorem Band.InRange.incIndex {x : Band} (h : x.InRange) : x.incIndex.InRange := by
  have hactive := Band.incIndex_active x h
  obtain ⟨h1, h10, -, htype⟩ := h
  refine ⟨h1, h10, ?_, htype⟩
  rw [hactive]
  exact Nat.mod_lt _ h1

/-- Moving the cursor writes ACTIVE only. -/
theorem Band.incIndex_iterate_frame (x : Band) (m : Nat) :
    Band.incIndex^[m] x = { x with active := (Band.incIndex^[m] x).active } := by
  induction m generalizing x with
  | zero => rfl
  | succ m ih =>
    rw [Function.iterate_succ_apply, ih x.incIndex]
    rfl

theorem Band.incIndex_iterate_active {x : Band} (h : x.InRange) (m : Nat) :
    (Band.incIndex^[m] x).active.val = (x.active.val + m) % x.depth.toNat := by
  induction m generalizing x with
  | zero =>
    obtain ⟨-, -, hactive, -⟩ := h
    exact (Nat.mod_eq_of_lt hactive).symm
  | succ m ih =>
    rw [Function.iterate_succ_apply, ih h.incIndex, Band.incIndex_active x h, Band.incIndex_depth, Nat.mod_add_mod,
      Nat.add_assoc, Nat.add_comm 1 m]

/-- DEPTH moves of the cursor bring it back. -/
theorem Band.incIndex_iterate_depth {x : Band} (h : x.InRange) : Band.incIndex^[x.depth.toNat] x = x := by
  have hactive : (Band.incIndex^[x.depth.toNat] x).active = x.active := by
    obtain ⟨-, -, hlt, -⟩ := id h
    rw [Fin.ext_iff, Band.incIndex_iterate_active h, Nat.add_mod_right, Nat.mod_eq_of_lt hlt]
  rw [Band.incIndex_iterate_frame, hactive]

/-- Every index below `d` is met on the way round from `a`. -/
theorem exists_lt_add_mod_eq {a j d : Nat} (ha : a < d) (hj : j < d) : ∃ m < d, (a + m) % d = j := by
  rcases le_or_gt a j with hle | hlt
  · exact ⟨j - a, by omega, by rw [Nat.add_sub_cancel' hle, Nat.mod_eq_of_lt hj]⟩
  · refine ⟨j + d - a, by omega, ?_⟩
    rw [Nat.add_sub_cancel' (by omega), Nat.add_mod_right, Nat.mod_eq_of_lt hj]

/-- No index is met twice on the way round from `a`. -/
theorem eq_of_add_mod_eq {a m m' d : Nat} (hm : m < d) (hm' : m' < d) (h : (a + m) % d = (a + m') % d) : m = m' :=
  (Nat.ModEq.add_left_cancel' a h).eq_of_lt_of_lt hm hm'

/-! ## The write to CTRL -/

theorem writtenMode_eq (v : Word) : writtenMode v = if v.getLsbD 0 then .interleaved else .biquad := by
  have hfield : v.extractLsb' 0 1 = BitVec.ofBool (v.getLsbD 0) := by
    ext i hi
    obtain rfl : i = 0 := by omega
    simp
  rw [writtenMode, hfield]
  cases v.getLsbD 0 <;> rfl

/-- A write to CTRL as one step. -/
theorem step_writeCtrl {s : State} {v : Word} {rest : List HostInput}
    (hp : s.pending = .write 0x000 v 0b1111 :: rest) : step s = .next ((s.accepted rest none).writeCtrl v) :=
  step_write (r := .global .ctrl) hp (by decide) (by decide)

section
variable (s : State) {v : Word}

theorem State.writeCtrl_refused (h : writtenOsf v = 3) : s.writeCtrl v = s.refuse .badValue v := if_pos h

/-- A CTRL write that is not refused writes OSF, MODE and the bands only. -/
theorem State.writeCtrl_frame (h : writtenOsf v ≠ 3) :
    s.writeCtrl v = { s with osf := writtenOsf v, mode := writtenMode v, bands := (s.writeCtrl v).bands } := by
  rw [State.writeCtrl, if_neg h]
  split
  next hmode => rw [hmode]
  next => rfl

theorem State.writeCtrl_bands_of_same_mode (h : writtenOsf v ≠ 3) (hmode : writtenMode v = s.mode) :
    (s.writeCtrl v).bands = s.bands := by
  rw [State.writeCtrl, if_neg h, if_pos hmode]

theorem State.writeCtrl_band_of_mode_change (h : writtenOsf v ≠ 3) (hmode : writtenMode v ≠ s.mode) (b : Fin 5) :
    (s.writeCtrl v).band b = (s.band b).modeChange := by
  rw [State.writeCtrl, if_neg h, if_neg hmode]
  exact forEach_get _ _ _

end

end Sys2Proof.Machine
end

section
/-! THEOREM. The interleaved bank: its commands in either mode, the cycle of the cursor, and the mode change of a CTRL
write (spec 42_interleaved_bank.md R140 to R145). -/

namespace Sys2Proof.Machine

/-- Settles O21: the check of the mode is the second of each of these commands. -/
theorem bankCommandInBiquadIsModeErr : Obligations.BankCommandInBiquadIsModeErr := by
  intro s b t n hmode i hi
  have hbank : checkInterleaved s.mode = .error .modeErr := by rw [hmode, checkInterleaved_biquad]
  simp only [List.mem_cons, List.not_mem_nil, or_false] at hi
  rcases hi with rfl | rfl | rfl <;>
    exact exec_eq_refuse .modeErr rfl (by rw [checkBand_val, hbank]; rfl)

/-- Settles O46: every type's code passes the check of TYPE. -/
theorem setTypeSetsTypeAndDirty : Obligations.SetTypeSetsTypeAndDirty :=
  fun _ b ft hmode => exec_setType b hmode ft

/-- Settles O47: the checks pass, and the loop over the slots clears those newly included. -/
theorem setInterleaveResizesTheBank : Obligations.SetInterleaveResizesTheBank := by
  intro s b n hmode h1 h10
  have hd := checkDepth_of_mem ⟨h1, h10⟩
  obtain ⟨hdepth, -, -⟩ := checkDepth_ok hd
  refine ⟨_, exec_setInterleave b hmode hd, ?_⟩
  rw [State.band_setBand_same]
  refine ⟨fun k => ?_, hdepth, ?_, rfl, rfl⟩
  · rw [Band.slot_setDepthTo, hdepth]
    rfl
  · rw [Band.setDepthTo_active, hdepth]

/-- Settles O48: within its ranges the cursor moves by one modulo DEPTH. -/
theorem incrementIndexAdvancesTheCursor : Obligations.IncrementIndexAdvancesTheCursor := by
  intro s b hmode hrange
  refine ⟨_, exec_incrementIndex b hmode, ?_⟩
  rw [State.band_setBand_same]
  exact ⟨Band.incIndex_active _ hrange, rfl⟩

/-- Settles O49: `m` commands move the cursor by `m` modulo DEPTH, so DEPTH of them bring it back, and fewer meet each
index once. -/
theorem incrementIndexIsCyclic : Obligations.IncrementIndexIsCyclic := by
  intro s b hmode hrange
  have hrun := repeatCommand_incrementIndex b hmode
  have hactive := Band.incIndex_iterate_active hrange
  refine ⟨?_, fun j hj => ?_⟩
  · rw [hrun, Band.incIndex_iterate_depth hrange, State.setBand_band]
  · obtain ⟨-, -, hlt, -⟩ := hrange
    obtain ⟨m, hm, hmet⟩ := exists_lt_add_mod_eq hlt hj
    refine ⟨m, _, hm, hrun m, ?_, fun m' t' hm' he hmet' => ?_⟩
    · rw [State.band_setBand_same, hactive, hmet]
    · obtain rfl := Host.Outcome.next.inj ((hrun m').symm.trans he)
      rw [State.band_setBand_same, hactive] at hmet'
      exact eq_of_add_mod_eq hm' hm (hmet'.trans hmet.symm)

/-- Settles O12: the write is one step, refused for OSF 3; else the bands change where the written mode differs. -/
theorem ctrlWriteActsByItsFields : Obligations.CtrlWriteActsByItsFields := by
  refine ⟨fun s v rest hosf hp => ⟨_, step_writeCtrl hp, ?_⟩, fun s v rest hosf hp => ⟨_, step_writeCtrl hp, ?_⟩⟩
  · rw [State.writeCtrl_refused _ hosf]
    rfl
  · have hframe := (s.accepted rest none).writeCtrl_frame hosf
    have hmode : ((s.accepted rest none).writeCtrl v).mode = writtenMode v := congrArg State.mode hframe
    refine ⟨hmode.trans (writtenMode_eq v), congrArg State.osf hframe, fun hne b => ?_, fun heq => ?_, ?_⟩
    · rw [hmode] at hne
      have hband := (s.accepted rest none).writeCtrl_band_of_mode_change hosf hne b
      rw [hband]
      exact ⟨fun k => Band.slot_modeChange _ k, rfl⟩
    · exact State.writeCtrl_bands_of_same_mode _ hosf (hmode.symm.trans heq)
    · rw [hframe]
      rfl

end Sys2Proof.Machine
end

section
/-! SUPPORT. Words with the opcode of NOP (spec 30_encoding.md R72, R74, 43_band_chain.md R167). -/

namespace Sys2Proof

/-- The row of NOP covers all 32 bits, so a word with its opcode that is not its word matches no row (R74). -/
theorem not_fits_of_nop_opcode {w : Word} (hopc : fieldOpc w = 0) (hw : w ≠ 0) {r : OpRow} (hr : r ∈ opRows) :
    r.fits w = false := by
  have hnop : ∀ q ∈ opRows, fieldOpc q.fixed = 0 → q.mask = BitVec.allOnes 32 ∧ q.fixed = 0 := by decide
  refine Bool.eq_false_iff.2 fun hfits => hw ?_
  obtain ⟨hmask, hfixed⟩ := hnop r hr ((fieldOpc_of_fits hr hfits).symm.trans hopc)
  have hword : w &&& r.mask = r.fixed := beq_iff_eq.1 hfits
  rwa [hmask, hfixed, BitVec.and_allOnes] at hword

end Sys2Proof
end

section
/-! SUPPORT. The binary32 operators of the mix stage and of an identity slot: factors of 1.0 and 0.0, and sums and
differences up to the sign of a zero, for which `feq` stands (spec 00_scope.md R12, R13, 43_band_chain.md R165, R168,
R169). -/

namespace Sys2Proof.Machine

/-! ## Factors and summands -/

/-- `fmul_one` for every pattern but a NaN. -/
theorem fmul_one_of_not_nan {a : F32} (h : isNaN a = false) : fmul a f32One = a := by
  cases ha : fVal a with
  | nan => exact absurd ha ((isNaN_eq_false_iff a).1 h)
  | inf s =>
    have hmul : fmul a f32One = fInf s := by simp [fmul, fVal_one, ha]
    rw [hmul, fVal_inf ha]
  | fin s m => exact fmul_one ((isFinite_iff_fVal a).2 ⟨s, m, ha⟩)

/-- Adding a zero of either sign changes no finite number but -0.0 (R168). -/
theorem fadd_isZero_of_ne_negZero {a z : F32} (ha : isFinite a = true) (hne : a ≠ 0x80000000) (hz : isZero z = true) :
    fadd a z = a := by
  cases h0 : isZero a with
  | false => exact fadd_isZero ha h0 hz
  | true =>
    simp only [isZero, Bool.or_eq_true, beq_iff_eq] at h0 hz
    obtain rfl : a = f32Zero := h0.resolve_right hne
    rcases hz with rfl | rfl <;> decide +kernel

/-! ## Equality up to the sign of a zero -/

theorem isNaN_of_isFinite {a : F32} (h : isFinite a = true) : isNaN a = false := by
  obtain ⟨s, m, hv⟩ := (isFinite_iff_fVal a).1 h
  simp [isNaN, hv]

theorem feq_of_isZero {a b : F32} (ha : isZero a = true) (hb : isZero b = true) : feq a b = true :=
  (feq_iff a b).2 ⟨isNaN_of_isFinite (isFinite_of_isZero ha), isNaN_of_isFinite (isFinite_of_isZero hb), .inr ⟨ha, hb⟩⟩

theorem feq_trans {a b c : F32} (hab : feq a b = true) (hbc : feq b c = true) : feq a c = true := by
  obtain ⟨ha, -, hab⟩ := (feq_iff a b).1 hab
  obtain ⟨-, hc, hbc'⟩ := (feq_iff b c).1 hbc
  rcases hab with rfl | ⟨hza, hzb⟩
  · exact hbc
  · rcases hbc' with rfl | ⟨-, hzc⟩
    · exact feq_of_isZero hza hzb
    · exact feq_of_isZero hza hzc

theorem isFinite_of_feq {a b : F32} (h : feq a b = true) (hb : isFinite b = true) : isFinite a = true := by
  obtain ⟨-, -, rfl | ⟨ha, -⟩⟩ := (feq_iff a b).1 h
  · exact hb
  · exact isFinite_of_isZero ha

section
variable {a b z : F32}

theorem feq_fadd_isZero (ha : isFinite a = true) (hz : isZero z = true) : feq (fadd a z) a = true := by
  cases h0 : isZero a with
  | true => exact feq_of_isZero (isZero_fadd_isZero h0 hz) h0
  | false => rw [fadd_isZero ha h0 hz]; exact feq_self (isNaN_of_isFinite ha)

theorem feq_isZero_fadd (ha : isFinite a = true) (hz : isZero z = true) : feq (fadd z a) a = true := by
  cases h0 : isZero a with
  | true => exact feq_of_isZero (isZero_fadd_isZero hz h0) h0
  | false => rw [isZero_fadd ha h0 hz]; exact feq_self (isNaN_of_isFinite ha)

theorem feq_fsub_isZero (ha : isFinite a = true) (hz : isZero z = true) : feq (fsub a z) a = true :=
  feq_fadd_isZero ha (isZero_flipSign hz)

/-- A number less an equal one is a zero. -/
theorem isZero_fsub_of_feq (hb : isFinite b = true) (h : feq a b = true) : isZero (fsub a b) = true := by
  obtain ⟨-, -, rfl | ⟨hza, hzb⟩⟩ := (feq_iff a b).1 h
  · rw [fsub_self hb]; decide
  · exact isZero_fsub_isZero hza hzb

end

/-! ## The crossfade -/

/-- With WET_MIX +0.0 the crossfade is the dry value plus a zero (R168). -/
theorem crossfade_zero {dry wet : F32} (hdry : isFinite dry = true) (hwet : isFinite wet = true) :
    (dry ≠ 0x80000000 → crossfade 0x00000000 dry wet = dry) ∧
    (dry = 0x80000000 → isZero (crossfade 0x00000000 dry wet) = true) := by
  have hone : fsub f32One 0x00000000 = f32One := by decide +kernel
  have hz : isZero (fmul 0x00000000 wet) = true := isZero_fmul_left hwet (by decide)
  rw [crossfade, hone, one_fmul hdry]
  refine ⟨fun hne => fadd_isZero_of_ne_negZero hdry hne hz, ?_⟩
  rintro rfl
  exact isZero_fadd_isZero (by decide) hz

/-- With WET_MIX 1.0 the crossfade is a zero plus the wet value (R168). -/
theorem crossfade_one {dry wet : F32} (hdry : isFinite dry = true) (hwet : isNaN wet = false) :
    (isZero wet = false → crossfade f32One dry wet = wet) ∧
    (isZero wet = true → isZero (crossfade f32One dry wet) = true) := by
  have hz : isZero (fmul f32Zero dry) = true := isZero_fmul_left hdry (by decide)
  rw [crossfade, one_fsub_one, one_fmul_of_canonical fun h => by rw [hwet] at h; cases h]
  exact ⟨fun h0 => isZero_fadd_of_not_nan hz h0 hwet, fun h0 => isZero_fadd_isZero hz h0⟩

end Sys2Proof.Machine
end

section
/-! SUPPORT. The impulse response of an identity slot, tap by tap (spec 43_band_chain.md R169). -/

namespace Sys2Proof.Machine

theorem Lane.zero_silent : Lane.zero.Silent := by unfold Lane.Silent; decide

/-- The first tap: a set with b0 = a0 gives 1.0. -/
theorem df1Output_impulse_of_identity {c : Coefs} (hc : c.Sound) (h0 : c.b0 = c.a0) :
    df1Output c Lane.zero f32One = f32One := by
  obtain ⟨hfin, ha0⟩ := c.sound_iff.1 hc
  rw [df1Output_impulse hfin (by rw [h0, ha0]), h0, fdiv_self (hfin c.a0 (by simp)) ha0]

section
variable {c : Coefs} (hc : c.Sound)
include hc

/-- The second tap: b1 less a1. -/
theorem isZero_df1Output_second (h1 : c.b1 = c.a1) : isZero (df1Output c ⟨f32One, 0, f32One, 0⟩ 0) = true := by
  obtain ⟨hfin, ha0⟩ := c.sound_iff.1 hc
  simp only [List.forall_mem_cons, List.not_mem_nil, false_implies, implies_true, and_true] at hfin
  obtain ⟨hb0, -, hb2, hfa0, ha1, ha2⟩ := hfin
  have hzero : isZero 0 = true := by decide
  rw [df1Output, h1, fmul_one ha1]
  have hleft : feq (fadd (fmul c.b0 0) c.a1) c.a1 = true := feq_isZero_fadd ha1 (isZero_fmul hb0 hzero)
  have hfeed : feq (fadd (fadd (fmul c.b0 0) c.a1) (fmul c.b2 0)) c.a1 = true :=
    feq_trans (feq_fadd_isZero (isFinite_of_feq hleft ha1) (isZero_fmul hb2 hzero)) hleft
  exact isZero_fdiv hfa0 ha0 (isZero_fsub_isZero (isZero_fsub_of_feq ha1 hfeed) (isZero_fmul ha2 hzero))

/-- The third tap: b2 less a2. -/
theorem isZero_df1Output_third (h2 : c.b2 = c.a2) {y : F32} (hy : isZero y = true) :
    isZero (df1Output c ⟨0, f32One, y, f32One⟩ 0) = true := by
  obtain ⟨hfin, ha0⟩ := c.sound_iff.1 hc
  simp only [List.forall_mem_cons, List.not_mem_nil, false_implies, implies_true, and_true] at hfin
  obtain ⟨hb0, hb1, -, hfa0, ha1, ha2⟩ := hfin
  have hzero : isZero 0 = true := by decide
  have hprods : isZero (fadd (fmul c.b0 0) (fmul c.b1 0)) = true :=
    isZero_fadd_isZero (isZero_fmul hb0 hzero) (isZero_fmul hb1 hzero)
  rw [df1Output, h2, fmul_one ha2]
  have hfeed : feq (fadd (fadd (fmul c.b0 0) (fmul c.b1 0)) c.a2) c.a2 = true := feq_isZero_fadd ha2 hprods
  have hback := feq_fsub_isZero (isFinite_of_feq hfeed ha2) (isZero_fmul ha1 hy)
  exact isZero_fdiv hfa0 ha0 (isZero_fsub_of_feq ha2 (feq_trans hback hfeed))

/-- Any number of zeros on the history of an impulse that passed comes out as zeros. -/
theorem isZero_of_mem_laneRun_after_impulse (h1 : c.b1 = c.a1) (h2 : c.b2 = c.a2) (n : Nat) {y : F32}
    (hy : y ∈ (laneRun c ⟨f32One, 0, f32One, 0⟩ (List.replicate n 0)).1) : isZero y = true := by
  have hzero : isZero 0 = true := by decide
  have hsecond := isZero_df1Output_second hc h1
  have hthird := isZero_df1Output_third hc h2 hsecond
  match n, hy with
  | 0, hy => cases hy
  | 1, hy => exact (List.mem_singleton.1 hy) ▸ hsecond
  | n + 2, hy =>
    rcases List.mem_cons.1 hy with rfl | hy
    · exact hsecond
    · rcases List.mem_cons.1 hy with rfl | hy
      · exact hthird
      · exact (silenceStaysSilence c _ _ hc ⟨hzero, hzero, hthird, hsecond⟩
          (fun x hx => List.eq_of_mem_replicate hx ▸ hzero)).1 y hy

end

end Sys2Proof.Machine
end

section
/-! SUPPORT. One pass of a band and the rotation of its cursor: what a pass gives, which band it touches, and how many
places the passes of a band, the cascade and TICK move each cursor (spec 43_band_chain.md R162, R163). -/

namespace Sys2Proof.Machine

/-! ## One pass -/

section
variable (cfg : Params) (b : Fin 5) (p : Nat) (s : State)

/-- A rotation is one place or none. -/
theorem rotateBefore_cases (m : Mode) : rotateBefore cfg m b p s = incIdx b s ∨ rotateBefore cfg m b p s = s :=
  ite_eq_or_eq _ _ _

theorem rotateAfter_cases (m : Mode) : rotateAfter cfg m b s = incIdx b s ∨ rotateAfter cfg m b s = s :=
  ite_eq_or_eq _ _ _

theorem rotateBefore_biquad : rotateBefore cfg .biquad b p s = s := rfl

theorem rotateAfter_biquad : rotateAfter cfg .biquad b s = s := rfl

/-- No rotation stands before the first pass (R163). -/
theorem rotateBefore_zero (m : Mode) : rotateBefore cfg m b 0 s = s := if_neg fun h => absurd h.2.2 (Nat.lt_irrefl 0)

variable {cfg}

theorem rotateBefore_afterEach (h : cfg.incPolicy = .afterEach) : rotateBefore cfg .interleaved b p s = s := by
  simp [rotateBefore, h]

theorem rotateAfter_afterEach (h : cfg.incPolicy = .afterEach) : rotateAfter cfg .interleaved b s = incIdx b s := by
  simp [rotateAfter, h]

theorem rotateAfter_between (h : cfg.incPolicy = .between) : rotateAfter cfg .interleaved b s = s := by
  simp [rotateAfter, h]

theorem rotateBefore_between (h : cfg.incPolicy = .between) (hp : 0 < p) :
    rotateBefore cfg .interleaved b p s = incIdx b s := by
  simp [rotateBefore, h, hp]

end

/-- The first pass gives the outputs of the slot that was active before it, in either mode and under either policy. -/
theorem onePass_zero_fst (cfg : Params) (m : Mode) (b : Fin 5) (v : F32 × F32) (s : State) :
    (onePass cfg m b (v, s) 0).1 = (((s.band b).slot (s.band b).active).output .left v.1,
      ((s.band b).slot (s.band b).active).output .right v.2) := by
  have hpass : (onePass cfg m b (v, s) 0).1 = (stepActive b v (rotateBefore cfg m b 0 s)).1 := rfl
  rw [hpass, rotateBefore_zero, stepActive, stepPair_eq]

/-! ## Moving a cursor -/

/-- `y` has the DEPTH of `x`, and the cursor of `x` moved by `n` places. -/
structure Band.Moved (x : Band) (n : Nat) (y : Band) : Prop where
  depth : y.depth = x.depth
  active : y.active = (Band.incIndex^[n] x).active

theorem Band.Moved.of_eq {x y : Band} (hdepth : y.depth = x.depth) (hactive : y.active = x.active) : x.Moved 0 y :=
  ⟨hdepth, hactive⟩

theorem Band.Moved.refl (x : Band) : x.Moved 0 x := .of_eq rfl rfl

theorem Band.moved_incIndex (x : Band) : x.Moved 1 x.incIndex := ⟨rfl, rfl⟩

/-- Where a cursor moves to depends on DEPTH and ACTIVE only. -/
theorem Band.incIndex_iterate_active_congr {x y : Band} (hdepth : y.depth = x.depth) (hactive : y.active = x.active)
    (n : Nat) : (Band.incIndex^[n] y).active = (Band.incIndex^[n] x).active := by
  induction n generalizing x y with
  | zero => exact hactive
  | succ n ih => exact ih hdepth (by simp only [Band.incIndex, hdepth, hactive])

theorem Band.Moved.trans {x y z : Band} {m n : Nat} (h : x.Moved m y) (g : y.Moved n z) : x.Moved (m + n) z := by
  have hdepth : (Band.incIndex^[m] x).depth = x.depth := by rw [Band.incIndex_iterate_frame]
  refine ⟨g.depth.trans h.depth, ?_⟩
  rw [g.active, Nat.add_comm, Function.iterate_add_apply]
  exact Band.incIndex_iterate_active_congr (h.depth.trans hdepth.symm) h.active n

/-- Within the ranges of R41, moving by `n` places is modulo DEPTH. -/
theorem Band.Moved.active_val {x y : Band} {n : Nat} (h : x.Moved n y) (hx : x.InRange) :
    y.active.val = (x.active.val + n) % x.depth.toNat := by
  rw [h.active, Band.incIndex_iterate_active hx]

/-! ## The passes of a band -/

section
variable (d b : Fin 5)

/-- Writing another band, or the same one unmoved. -/
theorem moved_setBand {s : State} {x : Band} {n : Nat} (h : (s.band b).Moved n x) :
    (s.band d).Moved (if d = b then n else 0) ((s.setBand b x).band d) := by
  rw [State.band_setBand]
  split
  next e => exact e ▸ h
  next => exact .refl _

theorem moved_incIdx (s : State) : (s.band d).Moved (if d = b then 1 else 0) ((incIdx b s).band d) :=
  moved_setBand d b (Band.moved_incIndex _)

theorem moved_stepPair (k : Fin 10) (v : F32 × F32) (s : State) : (s.band d).Moved 0 ((stepPair b k v s).2.band d) := by
  have h := moved_setBand d b (s := s) (.of_eq (y := (s.band b).setSlot k
    ((((s.band b).slot k).stepped .left v.1).stepped .right v.2)) rfl rfl)
  rw [ite_self] at h
  rw [stepPair_eq]
  exact h

variable (cfg : Params) (m : Mode)

/-- How many places pass `p` moves its band's cursor (R163). -/
def passPlaces (p : Nat) : Nat :=
  if m = .interleaved ∧ (cfg.incPolicy = .afterEach ∨ 0 < p) then 1 else 0

/-- How many places passes `0` to `k` move their band's cursor (R163). -/
def bandPlaces (k : Nat) : Nat := ((List.range (k + 1)).map (passPlaces cfg m)).sum

theorem passPlaces_biquad : passPlaces cfg .biquad = fun _ => 0 := by funext p; simp [passPlaces]

theorem bandPlaces_biquad (k : Nat) : bandPlaces cfg .biquad k = 0 := by simp [bandPlaces, passPlaces_biquad]

section
variable {cfg}

theorem passPlaces_afterEach (h : cfg.incPolicy = .afterEach) : passPlaces cfg .interleaved = fun _ => 1 := by
  funext p; simp [passPlaces, h]

theorem bandPlaces_afterEach (h : cfg.incPolicy = .afterEach) (k : Nat) : bandPlaces cfg .interleaved k = k + 1 := by
  simp [bandPlaces, passPlaces_afterEach h]

theorem passPlaces_between (h : cfg.incPolicy = .between) :
    passPlaces cfg .interleaved = fun p => if 0 < p then 1 else 0 := by
  funext p; simp [passPlaces, h]

theorem bandPlaces_between (h : cfg.incPolicy = .between) (k : Nat) : bandPlaces cfg .interleaved k = k := by
  simp [bandPlaces, passPlaces_between h, List.range_succ_eq_map, Function.comp_def]

end

theorem moved_onePass (acc : (F32 × F32) × State) (p : Nat) :
    (acc.2.band d).Moved (if d = b then passPlaces cfg m p else 0) ((onePass cfg m b acc p).2.band d) := by
  obtain ⟨v, s⟩ := acc
  have hstep := fun t : State => moved_stepPair d b (t.band b).active v t
  have hinc := moved_incIdx d b
  cases m with
  | biquad => simpa [onePass, stepActive, rotateBefore_biquad, rotateAfter_biquad, passPlaces_biquad] using hstep s
  | interleaved =>
    cases hpol : cfg.incPolicy with
    | afterEach =>
      simpa [onePass, stepActive, rotateBefore_afterEach, rotateAfter_afterEach, hpol, passPlaces_afterEach hpol]
        using (hstep s).trans (hinc _)
    | between =>
      rcases p.eq_zero_or_pos with rfl | hp
      · simpa [onePass, stepActive, rotateBefore_zero, rotateAfter_between, hpol, passPlaces_between hpol] using hstep s
      · simpa [onePass, stepActive, rotateBefore_between, rotateAfter_between, hpol, passPlaces_between hpol, hp]
          using (hinc s).trans (hstep _)

/-- A loop moves a cursor by the sum of what its rounds move it by. -/
theorem moved_foldl {β : Type} {f : (F32 × F32) × State → β → (F32 × F32) × State} {g : β → Nat}
    (h : ∀ (acc : (F32 × F32) × State) x, (acc.2.band d).Moved (g x) ((f acc x).2.band d)) (l : List β)
    (acc : (F32 × F32) × State) :
    (acc.2.band d).Moved (l.map g).sum ((l.foldl f acc).2.band d) := by
  induction l generalizing acc with
  | nil => exact .refl _
  | cons x l ih =>
    rw [List.map_cons, List.sum_cons]
    exact (h acc x).trans (ih _)

theorem moved_bandPasses (k : Nat) (acc : (F32 × F32) × State) :
    (acc.2.band d).Moved (if d = b then bandPlaces cfg m k else 0) ((bandPasses cfg m k acc b).2.band d) := by
  have h := moved_foldl d (moved_onePass d b cfg m) (List.range (k + 1)) acc
  split
  next e =>
    simp only [if_pos e] at h
    exact h
  next e =>
    simp only [if_neg e, List.map_const', List.sum_replicate, smul_zero] at h
    exact h

/-- The cascade runs each band's passes once. -/
theorem moved_cascade (k : Nat) (v : F32 × F32) (s : State) :
    (s.band d).Moved (bandPlaces cfg m k) ((cascade cfg m k v s).2.band d) := by
  have honce : (bandOrder.map fun b => if d = b then bandPlaces cfg m k else 0).sum = bandPlaces cfg m k := by
    fin_cases d <;> simp [bandOrder]
  exact honce ▸ moved_foldl d (fun acc b => moved_bandPasses d b cfg m k acc) bandOrder (v, s)

/-- The lazy update moves no cursor. -/
theorem moved_updated (x : Band) (fs : F32) : x.Moved 0 (x.updated cfg fs) := by
  unfold Band.updated
  split
  · exact .of_eq rfl rfl
  · exact .refl _

/-- TICK moves the cursor of every band as its passes do (R163). -/
theorem moved_runTick (s : State) :
    (s.band d).Moved (bandPlaces cfg s.mode s.osf.toNat) ((runTick cfg s).band d) := by
  have h := moved_cascade d cfg s.mode s.osf.toNat
    (fmul s.inL (linGain cfg s.inGainDb), fmul s.inR (linGain cfg s.inGainDb))
    (updateAll cfg { s with
      preL := fmul s.inL (linGain cfg s.inGainDb), preR := fmul s.inR (linGain cfg s.inGainDb) })
  rw [updateAll_band] at h
  exact Nat.zero_add (bandPlaces cfg s.mode s.osf.toNat) ▸ (moved_updated cfg (s.band d) s.sampleRate).trans h

end

end Sys2Proof.Machine
end

section
/-! SUPPORT. TICK by its steps: the gained input, the chain on it and the outputs (spec 43_band_chain.md R162), at gains
of 0 dB (R168), and on a chain of identity bands (R169). -/

namespace Sys2Proof.Machine

/-! ## The steps of TICK -/

section
variable (cfg : Params) (s : State)

/-- The gained input (R162 step 1). -/
def State.gained : F32 × F32 := (fmul s.inL (linGain cfg s.inGainDb), fmul s.inR (linGain cfg s.inGainDb))

/-- The cascade on the gained input, after the pre tap and the lazy updates: its outputs, and the state it leaves
(R162 steps 1 to 3). -/
def State.chain : (F32 × F32) × State :=
  cascade cfg s.mode s.osf.toNat (s.gained cfg)
    (updateAll cfg { s with preL := (s.gained cfg).1, preR := (s.gained cfg).2 })

/-- The outputs: the crossfade times the output gain (R162 steps 4 and 5). -/
def State.mixed : F32 × F32 :=
  (fmul (crossfade s.wetMix (dryTap cfg s.inL (s.gained cfg).1) (s.chain cfg).1.1) (linGain cfg s.outGainDb),
    fmul (crossfade s.wetMix (dryTap cfg s.inR (s.gained cfg).2) (s.chain cfg).1.2) (linGain cfg s.outGainDb))

theorem runTick_eq : runTick cfg s =
    State.noteNonfinite { (s.chain cfg).2 with outL := (s.mixed cfg).1, outR := (s.mixed cfg).2 }
      (!isFinite (s.mixed cfg).1 || !isFinite (s.mixed cfg).2) := rfl

theorem runTick_outL : (runTick cfg s).outL = (s.mixed cfg).1 := rfl

theorem runTick_outR : (runTick cfg s).outR = (s.mixed cfg).2 := rfl

theorem runTick_sticky : (runTick cfg s).sticky =
    if isFinite (s.mixed cfg).1 = true ∧ isFinite (s.mixed cfg).2 = true then (s.chain cfg).2.sticky
    else (s.chain cfg).2.sticky ||| 0x80 := by
  rw [runTick_eq, State.noteNonfinite_not_or_not]

/-- TICK writes the taps, OUT, sticky bits and the bands. -/
theorem runTick_frame : runTick cfg s = { s with
    preL := (s.gained cfg).1, preR := (s.gained cfg).2, outL := (s.mixed cfg).1, outR := (s.mixed cfg).2
    sticky := (runTick cfg s).sticky, bands := (s.chain cfg).2.bands } :=
  have hpre := (untouched_updateAll cfg { s with preL := (s.gained cfg).1, preR := (s.gained cfg).2 }).trans
    (untouched_cascade cfg s.mode s.osf.toNat (s.gained cfg) _)
  ((hpre.withOut (s.mixed cfg).1 (s.mixed cfg).2).trans (untouched_noteNonfinite _ _)).rest

theorem dryTap_eq (raw gained : F32) :
    dryTap cfg raw gained = if cfg.dryTap = .postInputGain then gained else raw := by
  unfold dryTap
  cases cfg.dryTap <;> rfl

theorem dryTap_self (v : F32) : dryTap cfg v v = v := by rw [dryTap_eq, ite_self]

end

/-- The lazy update writes none of these fields of a band (41_biquad_core.md R123). -/
theorem Band.updated_keeps (x : Band) (cfg : Params) (fs : F32) :
    (x.updated cfg fs).freq = x.freq ∧ (x.updated cfg fs).gainDb = x.gainDb ∧ (x.updated cfg fs).q = x.q ∧
    (x.updated cfg fs).ftype = x.ftype ∧ (x.updated cfg fs).depth = x.depth := by
  unfold Band.updated
  split <;> exact ⟨rfl, rfl, rfl, rfl, rfl⟩

theorem Band.Filtered.keeps {x y : Band} (h : x.Filtered y) :
    y.freq = x.freq ∧ y.gainDb = x.gainDb ∧ y.q = x.q ∧ y.ftype = x.ftype ∧ y.depth = x.depth := by
  rw [h.rest]
  exact ⟨rfl, rfl, rfl, rfl, rfl⟩

/-! ## Gains of 0 dB -/

section
variable {cfg : Params} {s : State} (hP : cfg.P1)
include hP

/-- An input gain of 0 dB leaves finite inputs as they are. -/
theorem gained_of_isZero (hg : isZero s.inGainDb = true) (hl : isFinite s.inL = true) (hr : isFinite s.inR = true) :
    s.gained cfg = (s.inL, s.inR) := by
  rw [State.gained, linGain_of_isZero hP hg, fmul_one hl, fmul_one hr]

/-- Both gains at 0 dB: each output is the crossfade of the input and the chain's output, times 1.0. -/
theorem mixed_of_isZero (hin : isZero s.inGainDb = true) (hout : isZero s.outGainDb = true)
    (hl : isFinite s.inL = true) (hr : isFinite s.inR = true) :
    s.mixed cfg = (fmul (crossfade s.wetMix s.inL (s.chain cfg).1.1) f32One,
      fmul (crossfade s.wetMix s.inR (s.chain cfg).1.2) f32One) := by
  simp only [State.mixed, linGain_of_isZero hP hout, gained_of_isZero hP hin hl hr, dryTap_self]

end

/-- The dry path alone, at an output gain of 1.0 (R168). -/
theorem crossfade_zero_fmul_one {dry wet : F32} (hdry : isFinite dry = true) (hwet : isFinite wet = true) :
    (dry ≠ 0x80000000 → fmul (crossfade 0x00000000 dry wet) f32One = dry) ∧
    (dry = 0x80000000 → isZero (fmul (crossfade 0x00000000 dry wet) f32One) = true) := by
  obtain ⟨hsame, hzero⟩ := crossfade_zero hdry hwet
  refine ⟨fun hne => by rw [hsame hne, fmul_one hdry], fun heq => ?_⟩
  rw [fmul_one (isFinite_of_isZero (hzero heq))]
  exact hzero heq

/-- The wet path alone, at an output gain of 1.0 (R168). -/
theorem crossfade_one_fmul_one {dry wet : F32} (hdry : isFinite dry = true) (hwet : isNaN wet = false) :
    (isZero wet = false → fmul (crossfade f32One dry wet) f32One = wet) ∧
    (isZero wet = true → isZero (fmul (crossfade f32One dry wet) f32One) = true) := by
  obtain ⟨hsame, hzero⟩ := crossfade_one hdry hwet
  refine ⟨fun h0 => by rw [hsame h0, fmul_one_of_not_nan hwet], fun h0 => ?_⟩
  rw [fmul_one (isFinite_of_isZero (hzero h0))]
  exact hzero h0

/-! ## Identity bands -/

/-- All ten slots hold a sound set with b0 = a0 over zero history (R169). -/
def Band.PassesImpulse (x : Band) : Prop :=
  ∀ k, (x.slot k).coefs.Sound ∧ (x.slot k).coefs.b0 = (x.slot k).coefs.a0 ∧
    (x.slot k).left = Lane.zero ∧ (x.slot k).right = Lane.zero

/-- The impulse pair of R169: 1.0 on the left, a zero on the right. -/
def IsImpulse (v : F32 × F32) : Prop := v.1 = f32One ∧ isZero v.2 = true

theorem onePass_band_ne (cfg : Params) (m : Mode) {b d : Fin 5} (h : d ≠ b) (acc : (F32 × F32) × State) (p : Nat) :
    (onePass cfg m b acc p).2.band d = acc.2.band d := by
  have hrot : ∀ t u : State, u = incIdx b t ∨ u = t → u.band d = t.band d := by
    rintro t u (rfl | rfl)
    · exact State.band_setBand_ne t _ h
    · rfl
  rw [onePass, hrot _ _ (rotateAfter_cases _ _ _ _), stepActive, stepPair_eq, State.band_noteNonfinite,
    State.band_setBand_ne _ _ h, hrot _ _ (rotateBefore_cases _ _ _ _ _)]

/-- The first pass of an identity band on zero history passes the impulse. -/
theorem isImpulse_onePass (cfg : Params) (m : Mode) {b : Fin 5} {acc : (F32 × F32) × State} (hv : IsImpulse acc.1)
    (hb : (acc.2.band b).PassesImpulse) : IsImpulse (onePass cfg m b acc 0).1 := by
  obtain ⟨⟨vl, vr⟩, s⟩ := acc
  obtain ⟨rfl, hr⟩ : vl = f32One ∧ isZero vr = true := hv
  obtain ⟨hc, h0, hleft, hright⟩ := hb (s.band b).active
  rw [onePass_zero_fst, Slot.output, Slot.output, Slot.lane_left, Slot.lane_right, hleft, hright]
  exact ⟨df1Output_impulse_of_identity hc h0, isZero_df1Output hc Lane.zero_silent hr⟩

/-- One pass each through distinct identity bands on zero history passes the impulse. -/
theorem isImpulse_foldl_bandPasses (cfg : Params) (m : Mode) {l : List (Fin 5)} (hl : l.Nodup)
    {acc : (F32 × F32) × State} (hv : IsImpulse acc.1) (hb : ∀ b ∈ l, (acc.2.band b).PassesImpulse) :
    IsImpulse (l.foldl (bandPasses cfg m 0) acc).1 := by
  induction l generalizing acc with
  | nil => exact hv
  | cons b l ih =>
    obtain ⟨hbl, hl⟩ := List.nodup_cons.1 hl
    obtain ⟨hb, hrest⟩ := List.forall_mem_cons.1 hb
    refine ih hl (isImpulse_onePass cfg m hv hb) fun d hd => ?_
    have hne : d ≠ b := fun e => hbl (e ▸ hd)
    exact (onePass_band_ne cfg m hne acc 0).symm ▸ hrest d hd

/-- With OSF 0 the chain of five identity bands that need no update passes the impulse (R169). -/
theorem isImpulse_chain {cfg : Params} {s : State} (hosf : s.osf = 0) (hv : IsImpulse (s.gained cfg))
    (hb : ∀ b, (s.band b).due s.sampleRate = false ∧ (s.band b).PassesImpulse) : IsImpulse (s.chain cfg).1 := by
  rw [State.chain, hosf]
  refine isImpulse_foldl_bandPasses cfg s.mode (l := bandOrder) (by decide) hv fun b _ => ?_
  obtain ⟨hdue, hpass⟩ := hb b
  rw [updateAll_band]
  exact (Band.updated_of_not_due cfg hdue).symm ▸ hpass

end Sys2Proof.Machine
end

section
/-! THEOREM. The band chain: TICK, its passes and rotations, the mix stage, the identity chain, and NOP (spec
43_band_chain.md R160 to R169). -/

namespace Sys2Proof.Machine

/-- Settles O29: the row of NOP covers every bit of the word. -/
theorem nopChangesNothing : Obligations.NopChangesNothing := by
  refine ⟨fun _ => rfl, decodeOfEncode .nop rfl, fun s w rest hopc hw hp => ⟨_, step_badCmd hp fun r hr => ?_, rfl⟩⟩
  exact not_fits_of_nop_opcode (congrArg BitVec.toNat hopc) hw hr

/-- Settles O51: in each case of mode, policy and pass number, which of the two rotations stand. -/
theorem onePassStepsTheActiveSlot : Obligations.OnePassStepsTheActiveSlot := by
  intro cfg m b v s p
  refine ⟨?_, ?_, ?_, ?_⟩
  · rintro rfl
    rfl
  · rintro rfl hpol
    rw [onePass, rotateBefore_afterEach _ _ _ hpol, rotateAfter_afterEach _ _ hpol, stepActive]
  · rintro rfl hpol rfl
    rw [onePass, rotateBefore_zero, rotateAfter_between _ _ hpol, stepActive]
  · rintro rfl hpol hp
    rw [onePass, rotateBefore_between _ _ _ hpol hp, rotateAfter_between _ _ hpol, stepActive]

/-- Settles O52: a cursor moves by the places of its band's passes, modulo DEPTH. -/
theorem tickRotatesByItsPasses : Obligations.TickRotatesByItsPasses := by
  intro cfg s b hinv
  have hmoved := moved_runTick b cfg s
  refine ⟨fun hm => ?_, fun hm hpol => ?_, fun hm hpol => ?_⟩
  · rw [hm, bandPlaces_biquad] at hmoved
    exact hmoved.active
  · rw [hm, bandPlaces_afterEach hpol] at hmoved
    exact hmoved.active_val (hinv.ranges b)
  · rw [hm, bandPlaces_between hpol] at hmoved
    exact hmoved.active_val (hinv.ranges b)

/-- Settles O50: TICK is its steps, and leaves of a band its lazy update with other histories and another cursor. -/
theorem tickRunsThePipeline : Obligations.TickRunsThePipeline := by
  intro s
  have hframe := runTick_frame Config.build s
  refine ⟨runTick Config.build s, rfl, ⟨?_, ?_, ?_, ?_, rfl, ?_⟩, fun b => ?_, ?_⟩
  · exact (congrArg State.preL hframe :)
  · exact (congrArg State.preR hframe :)
  · rw [← dryTap_eq]
    rfl
  · rw [← dryTap_eq]
    rfl
  · exact runTick_sticky Config.build s
  · obtain ⟨hfreq, hgain, hq, htype, hdepth⟩ := (filtered_runTick Config.build s b).keeps
    obtain ⟨hfreq', hgain', hq', htype', hdepth'⟩ := (s.band b).updated_keeps Config.build s.sampleRate
    exact ⟨hfreq.trans hfreq', hgain.trans hgain', hq.trans hq', htype.trans htype', hdepth.trans hdepth'⟩
  · rw [hframe]

/-- Settles O54: the gains are 1.0, the chain's products with +0.0 are zeros, and a zero added to the input leaves it. -/
theorem dryMixReproducesTheInput : Obligations.DryMixReproducesTheInput := by
  intro cfg s hP hin hout hmix hl hr hchain
  have hwet : isFinite (s.chain cfg).1.1 = true ∧ isFinite (s.chain cfg).1.2 = true := by
    rw [State.chain, gained_of_isZero hP hin hl hr]
    exact hchain
  rw [runTick_outL, runTick_outR, mixed_of_isZero hP hin hout hl hr, hmix]
  obtain ⟨hleft, hleft'⟩ := crossfade_zero_fmul_one hl hwet.1
  obtain ⟨hright, hright'⟩ := crossfade_zero_fmul_one hr hwet.2
  exact ⟨hleft, hleft', hright, hright'⟩

/-- Settles O55: the dry product is a zero, and the output gain is 1.0. -/
theorem fullWetReproducesTheChain : Obligations.FullWetReproducesTheChain := by
  intro cfg g dry wet hP hg hdry hwet
  rw [linGain_of_isZero hP hg]
  exact crossfade_one_fmul_one hdry hwet

/-- Settles O45: the first tap is 1.0, the next two are `b1 - a1` and `b2 - a2` over a0, and the rest is silence. -/
theorem identitySlotPassesTheImpulse : Obligations.IdentitySlotPassesTheImpulse := by
  intro c n hc h0 h1 h2
  have hfirst : df1Output c ⟨0, 0, 0, 0⟩ 0x3F800000 = f32One := df1Output_impulse_of_identity hc h0
  have hrun : (laneRun c ⟨0, 0, 0, 0⟩ (0x3F800000 :: List.replicate n 0)).1 =
      f32One :: (laneRun c ⟨f32One, 0, f32One, 0⟩ (List.replicate n 0)).1 := by
    rw [laneRun, hfirst]
    rfl
  exact ⟨_, hrun, fun _ => isZero_of_mem_laneRun_after_impulse hc h1 h2 n⟩

/-- Settles O56: the chain passes the impulse, and the full wet mix at 0 dB passes the chain. -/
theorem identityChainPassesTheImpulse : Obligations.IdentityChainPassesTheImpulse := by
  intro cfg s hP hin hout hmix hosf hl hr hbands
  have hfl : isFinite s.inL = true := by rw [hl]; decide
  have hfr : isFinite s.inR = true := by rw [hr]; decide
  have hinput : IsImpulse (s.gained cfg) := by
    rw [gained_of_isZero hP hin hfl hfr, hl, hr]
    exact ⟨rfl, by decide⟩
  obtain ⟨hleft, hright⟩ := isImpulse_chain hosf hinput fun b => by
    obtain ⟨hdirty, hsame, hslots⟩ := hbands b
    exact ⟨by rw [due_eq, hsame, hdirty]; rfl, hslots⟩
  rw [runTick_outL, runTick_outR, mixed_of_isZero hP hin hout hfl hfr, hmix]
  refine ⟨?_, (crossfade_one_fmul_one hfr (isNaN_of_isFinite (isFinite_of_isZero hright))).2 hright⟩
  rw [hleft]
  exact (crossfade_one_fmul_one hfl (by decide)).1 (by decide)

end Sys2Proof.Machine
end

section
/-! SUPPORT. Refusals and stops: what a refused command leaves unchanged (spec 60_exceptions.md R183), the record that
LAST_ERR and ERRINFO make of the last refusal (R181, R185), and that every transaction ends in a next state (R180,
R188). -/

namespace Sys2Proof.Machine

section
variable {i : Instr} {s t : State}

/-! ## A refused command -/

/-- A refusal shows in STATUS and ERRINFO only. -/
theorem State.readReg_refuse (s : State) (c : Cause) (w : Word) {r : Reg} (hstatus : r ≠ .global .status)
    (hinfo : r ≠ .global .errInfo) : (s.refuse c w).readReg r = s.readReg r := by
  cases r with
  | global r =>
    cases r with
    | status => exact absurd rfl hstatus
    | errInfo => exact absurd rfl hinfo
    | _ => rfl
  | band b r => rfl
  | slot b k r => rfl

/-- The effect of a command neither records a refusal nor answers one. -/
theorem effectOf_keeps_record (e : EffectOf i s t) :
    t.lastErr = s.lastErr ∧ t.errInfo = s.errInfo ∧ t.pslverr = s.pslverr := by
  obtain ⟨hcode, hinfo, herr⟩ : (withResults i s t).lastErr = s.lastErr ∧
      (withResults i s t).errInfo = s.errInfo ∧ (withResults i s t).pslverr = s.pslverr := by
    rw [withResults_eq]
    exact ⟨rfl, rfl, rfl⟩
  have h := untouched_effectOf e
  exact ⟨h.lastErr.trans hcode, h.errInfo.trans hinfo, h.pslverr.trans herr⟩

/-- A command that turns `pslverr` on is refused, by one cause. -/
theorem exec_refused (hs : s.pslverr = false) (e : exec i s = .next t) (ht : t.pslverr = true) :
    ∃ c, t = s.refuse c (encode i) := by
  rcases exec_cases e with hrefused | heffect
  · exact hrefused
  · obtain ⟨-, -, herr⟩ := effectOf_keeps_record heffect
    rw [herr, hs] at ht
    exact absurd ht Bool.false_ne_true

/-! ## The record of the last refusal -/

/-- LAST_ERR holds no reserved code, and ERRINFO is 0 while no refusal is recorded (R181, R185). -/
def State.RecordSound (s : State) : Prop :=
  s.lastErr.toNat ≤ 7 ∧ (s.lastErr = 0 → s.errInfo = 0)

theorem State.RecordSound.congr (h : s.RecordSound) (hcode : t.lastErr = s.lastErr) (hinfo : t.errInfo = s.errInfo) :
    t.RecordSound := by
  rw [State.RecordSound, hcode, hinfo]
  exact h

/-- No cause has a reserved code, nor the code 0 of no refusal (R181). -/
theorem Cause.code_range (c : Cause) : c.code.toNat ≤ 7 ∧ c.code ≠ 0 := by
  cases c <;> decide

/-- A refusal makes the record sound, whatever stood there before. -/
theorem recordSound_refuse (s : State) (c : Cause) (w : Word) : (s.refuse c w).RecordSound := by
  obtain ⟨hle, hne⟩ := c.code_range
  exact ⟨hle, fun hcode => absurd hcode hne⟩

theorem State.RecordSound.exec (h : s.RecordSound) (e : exec i s = .next t) : t.RecordSound := by
  rcases exec_cases e with ⟨c, rfl⟩ | heffect
  · exact recordSound_refuse s c _
  · obtain ⟨hcode, hinfo, -⟩ := effectOf_keeps_record heffect
    exact h.congr hcode hinfo

/-- A CTRL write is refused or leaves the record alone (10_state.md R22). -/
theorem State.RecordSound.writeCtrl (h : s.RecordSound) (v : Word) : (s.writeCtrl v).RecordSound := by
  by_cases hosf : writtenOsf v = 3
  · rw [s.writeCtrl_refused hosf]
    exact recordSound_refuse s _ v
  · rw [s.writeCtrl_frame hosf]
    exact h.congr rfl rfl

/-- No register write but a refused one to CTRL touches the record: ERRINFO and LAST_ERR are read-only (R56). -/
theorem State.RecordSound.writeReg (h : s.RecordSound) (r : Reg) (v : Word) : (s.writeReg r v).RecordSound := by
  cases r with
  | global r =>
    cases r with
    | ctrl => exact h.writeCtrl v
    | _ => exact h.congr rfl rfl
  | band b r => exact h.congr rfl rfl
  | slot b k r => exact h

end

/-! ## No stop -/

theorem continues_next (t : State) : Continues (.next t) := ⟨t, rfl⟩

/-- Every command ends in a next state: in its effect or in its refusal, each of which is one (R183, R188). -/
theorem continues_exec (i : Instr) (s : State) : Continues (exec i s) := by
  cases i <;> exact continues_next _

theorem continues_runCommandWord (w : Word) (s : State) : Continues (runCommandWord w s) := by
  unfold runCommandWord
  split
  next i _ => exact continues_exec i s
  next => exact continues_next _

theorem continues_busWrite (a : Addr) (v : Word) (strb : BitVec 4) (s : State) : Continues (busWrite a v strb s) := by
  unfold busWrite
  split
  next => exact continues_next _
  next r _ =>
    split
    · exact continues_next _
    · split
      · exact continues_runCommandWord v _
      · exact continues_next _

theorem continues_accept (x : HostInput) (s : State) : Continues (accept x s) := by
  cases x with
  | read a => exact continues_next _
  | write a v strb => exact continues_busWrite a v strb s
  | reset => exact continues_next _

end Sys2Proof.Machine
end

section
/-! THEOREM. Refusals: what a refused command changes, the record that every step keeps, and that nothing stops the
block (spec 60_exceptions.md R180, R181, R183, R185, R188). -/

namespace Sys2Proof.Machine

/-- Settles O24: a command that answers `pslverr` made the record of one cause, and that record shows in STATUS and
ERRINFO only. -/
theorem refusedCommandChangesOnlyTheRecord : Obligations.RefusedCommandChangesOnlyTheRecord := by
  intro i s t hs e ht
  obtain ⟨c, rfl⟩ := exec_refused hs e ht
  exact ⟨fun _ hstatus hinfo => s.readReg_refuse c _ hstatus hinfo, c, rfl⟩

/-- Settles O26, by what a step can do and that each of its effects keeps the record or makes a sound one. -/
theorem stepKeepsTheRefusalRecord : Obligations.StepKeepsTheRefusalRecord := by
  intro s t hcode hinfo e
  have hs : s.RecordSound := ⟨hcode, hinfo⟩
  have accepted : ∀ rest p, (s.accepted rest p).RecordSound := fun _ _ => hs.congr rfl rfl
  cases step_cases e with
  | idle => exact hs
  | answered rest r => exact accepted rest _
  | refused rest p c info => exact recordSound_refuse _ c info
  | wrote rest r v => exact (accepted rest none).writeReg r v
  | ran rest i e => exact (accepted rest none).exec e
  | reset rest => exact ⟨Nat.zero_le 7, fun _ => rfl⟩

/-- Settles O17: with no input the block is idle, and every input ends in a next state. -/
theorem stepAlwaysContinues : Obligations.StepAlwaysContinues := by
  intro s
  unfold step acceptNext
  split
  next => exact continues_next _
  next x rest _ => exact continues_accept x _

end Sys2Proof.Machine
end

section
/-! THEOREM. Reset and idleness: the step that takes an input of the host, and the step that finds none (spec
70_reset_and_hazards.md R200, R201). -/

namespace Sys2Proof.Machine

/-- A step with an input left takes it from the host's list and accepts it. -/
theorem step_eq_accept {s : State} {x : HostInput} {rest : List HostInput} (hp : s.pending = x :: rest) :
    step s = accept x { s with pending := rest } := by
  simp only [step, acceptNext, hp]

/-- With no input left there is nothing to accept. -/
theorem step_of_pending_eq_nil {s : State} (hp : s.pending = []) : step s = .next s := by
  simp only [step, acceptNext, hp]

/-- Only the host's list outlives `rst_n` low: no field of the old state is read otherwise. -/
theorem accept_reset (s : State) : accept .reset s = .next { State.reset with pending := s.pending } := rfl

/-- Settles O14: the step takes the reset from the host's list, and accepting it keeps the rest of that list only. -/
theorem resetStepResetsEveryRegister : Obligations.ResetStepResetsEveryRegister := by
  intro s rest hp
  calc step s
      = accept .reset { s with pending := rest } := step_eq_accept hp
    _ = .next { State.reset with pending := rest } := accept_reset _

/-- Settles O15. -/
theorem idleStepChangesNothing : Obligations.IdleStepChangesNothing :=
  fun _ hp => step_of_pending_eq_nil hp

end Sys2Proof.Machine
end
